-- ==== Sys2Proof/Word.lean ====
section
/-! DEFINITION. The word types of the core, by their widths (00_scope.md R7), and the two closed name sets that its
control words select between. -/

namespace Sys2Proof

/-- A 64-bit block, master key or host value (R7, R37). -/
abbrev Block := BitVec 64

/-- A 56-bit permuted key or round key `C ‖ D` (R7; 90_conflicts.md C4). -/
abbrev RoundKey := BitVec 56

/-- One 28-bit half `C` or `D` of the round key (R7). -/
abbrev KeyHalf := BitVec 28

/-- A 48-bit subkey or expanded half (R7). -/
abbrev Subkey := BitVec 48

/-- A 32-bit half block (R7). -/
abbrev Half := BitVec 32

/-- A round index `0..15`, as the 4-bit `RND` holds it (R7, R20). -/
abbrev RoundIndex := BitVec 4

/-- One byte of a host buffer (R37). -/
abbrev Byte := BitVec 8

/-- The direction of a block: encrypt is forward key rotation, decrypt is reverse (00_scope.md glossary; R51). -/
inductive Mode where
  | encrypt
  | decrypt
deriving DecidableEq, Repr

/-- The control formats of 30_encoding.md R49, with the host's script line `rst ‖ cmd` of R60 as the fifth. -/
inductive Format where
  /-- `cmd[1:0]`, 2 bits. -/
  | cmd
  /-- `PHASE ‖ RND`, 6 bits. -/
  | seq
  /-- `rst ‖ cmd[1:0]`, 3 bits. -/
  | script
  /-- `ks_load ‖ ks_step ‖ ks_dir ‖ ks_rnd`, 7 bits. -/
  | ksctl
  /-- `rp_last`, 1 bit. -/
  | rpctl
deriving DecidableEq, Repr

/-- A control word as it comes from outside: a format and a number, not yet known to fit the format's width. -/
structure CtlWord where
  fmt : Format
  bits : Nat
deriving DecidableEq, Repr

end Sys2Proof
end

