-- ==== Sys2Proof/Config.lean ====
section
/-! DEFINITION. What is fixed for a machine and does not change as it runs: the parameters of 00_scope.md R7. The
constant tables (10_state.md R31) stand in Sys2Proof/Machine/Tables.lean. No result of the core is left open by the
spec, so there is no free value here. -/

namespace Sys2Proof

/-- The number of rounds of one block (00_scope.md R7). -/
def Config.rounds : Nat := 16

/-- `N_CORES`, the number of core instances, at least one (00_scope.md R7; 92_eei_decisions.md D18): a named parameter
that a definition about several instances takes as its argument. -/
structure Config.Instances where
  nCores : Nat
  atLeastOne : 1 ≤ nCores
deriving DecidableEq, Repr

end Sys2Proof
end

