-- ==== Sys2Proof/Machine/Bits.lean ====
section
/-! DEFINITION. The primitives of 00_scope.md section 4: DES bit numbering, splitting and joining, the permutation and
rotation primitives. -/

namespace Sys2Proof.Machine

/-- `bit(v, i)`, the `i`-th bit counted from the most significant end, `1 ≤ i ≤ W`: `bit(v, i) = v[W - i]` (R8, R9). -/
def bit {w : Nat} (v : BitVec w) (i : Nat) : Bool := v.getLsbD (w - i)

/-- `permute(T, v)` for a table `T` of `m` entries: bit `j` of the result is bit `T[j]` of `v` (R11). The result is
assembled from its most significant bit on, one table entry after the other. -/
def permute {w : Nat} (m : Nat) (T : List Nat) (v : BitVec w) : BitVec m :=
  BitVec.ofNat m (T.foldl (fun acc p => 2 * acc + (bit v p).toNat) 0)

/-- `hi_28(cd)`, bits 1 to 28 of a round key (R10, R64). -/
def hi28 (cd : RoundKey) : KeyHalf := cd.extractLsb' 28 28

/-- `lo_28(cd)`, bits 29 to 56 of a round key (R10, R64). -/
def lo28 (cd : RoundKey) : KeyHalf := cd.extractLsb' 0 28

/-- `C ‖ D` (R10, R64). -/
def joinKey (c d : KeyHalf) : RoundKey := c ++ d

/-- `hi_32(x)`, the Left half of a block (R10, R99). -/
def hi32 (x : Block) : Half := x.extractLsb' 32 32

/-- `lo_32(x)`, the Right half of a block (R10, R99). -/
def lo32 (x : Block) : Half := x.extractLsb' 0 32

/-- `l ‖ r` (R10, R99). -/
def joinHalves (l r : Half) : Block := l ++ r

/-- Circular left rotation of a 28-bit half, toward bit 1 (R12). -/
def rotl28 (x : KeyHalf) (n : Nat) : KeyHalf := x.rotateLeft n

/-- Circular right rotation of a 28-bit half, toward bit 28 (R12). -/
def rotr28 (x : KeyHalf) (n : Nat) : KeyHalf := x.rotateRight n

end Sys2Proof.Machine
end

