-- ==== Sys2Proof/Machine/KeySchedule.lean ====
section
/-! DEFINITION. The key schedule as pure functions: `derivePermutedKey`, `rotate`, `compress` and the subkey sequences
(40_key_schedule.md sections 1 to 4). -/

namespace Sys2Proof.Machine

/-- PC-1 of a master key; the parity bits are not read (R63). -/
def derivePermutedKey (key : Block) : RoundKey := permute 56 tablePC1 key

/-- `SHIFT[j]` (R65). -/
def shift (j : RoundIndex) : Nat := shiftTable.getD j.toNat 0

/-- `DSHIFT[j]`: the first decryption step does not rotate (R66, R137). -/
def dshift (j : RoundIndex) : Nat := dshiftTable.getD j.toNat 0

/-- Forward rotation, each half on its own (R67). -/
def rotateFwd (cd : RoundKey) (j : RoundIndex) : RoundKey :=
  joinKey (rotl28 (hi28 cd) (shift j)) (rotl28 (lo28 cd) (shift j))

/-- Reverse rotation, each half on its own (R68). -/
def rotateRev (cd : RoundKey) (j : RoundIndex) : RoundKey :=
  joinKey (rotr28 (hi28 cd) (dshift j)) (rotr28 (lo28 cd) (dshift j))

/-- The `rotate` contract: forward for encrypt, reverse for decrypt (R69). -/
def rotate (cd : RoundKey) (j : RoundIndex) (dir : Mode) : RoundKey :=
  match dir with
  | .encrypt => rotateFwd cd j
  | .decrypt => rotateRev cd j

/-- PC-2 of a round key: the round's subkey (R71). -/
def compress (cd : RoundKey) : Subkey := permute 48 tablePC2 cd

/-- The round indexes `0..15`, in order (R7, R99). -/
def roundIndexes : List RoundIndex := [0, 1, 2, 3, 4, 5, 6, 7, 8, 9, 10, 11, 12, 13, 14, 15]

/-- The round key after the first `n` rounds of a schedule that starts from `cd`: rotated by the rounds `0` to `n - 1`
in turn (R72, R73). -/
def scheduleKey (cd : RoundKey) (dir : Mode) (n : Nat) : RoundKey :=
  (roundIndexes.take n).foldl (fun x j => rotate x j dir) cd

/-- The subkey of round `j` under a master key: rotate first, then compress (R72, R73, R136). -/
def subkey (key : Block) (dir : Mode) (j : Nat) : Subkey :=
  compress (scheduleKey (derivePermutedKey key) dir (j + 1))

end Sys2Proof.Machine
end

