-- ==== Sys2Proof/Machine/RoundProcessor.lean ====
section
/-! DEFINITION. The Feistel round as pure functions: `expand`, `mixAndSubstitute`, `straightPermute`, `f` and the round
step in its two forms (41_feistel_round.md). None of them has a mode input (R92, R94). -/

namespace Sys2Proof.Machine

/-- Expansion E (R81). -/
def expand (r : Half) : Subkey := permute 48 tableE r

/-- Group `g` (1 to 8): bits `6g-5` to `6g` of the mixed value (R85). -/
def group (x : Subkey) (g : Nat) : BitVec 6 := x.extractLsb' (48 - 6 * g) 6

/-- Row index `2·b1 + b6` of a group (R86). -/
def sboxRow (grp : BitVec 6) : Nat := 2 * (bit grp 1).toNat + (bit grp 6).toNat

/-- Column index `8·b2 + 4·b3 + 2·b4 + b5` of a group (R86). -/
def sboxCol (grp : BitVec 6) : Nat :=
  8 * (bit grp 2).toNat + 4 * (bit grp 3).toNat + 2 * (bit grp 4).toNat + (bit grp 5).toNat

/-- The lookup `Sg[row][col]` of one group (R87). -/
def sboxOut (S : List (List Nat)) (grp : BitVec 6) : BitVec 4 :=
  BitVec.ofNat 4 ((S.getD (sboxRow grp) []).getD (sboxCol grp) 0)

/-- Key mixing, then the eight lookups, packed in order (R82, R87). -/
def mixAndSubstitute (e k : Subkey) : Half :=
  let x := e ^^^ k
  sboxOut sbox1 (group x 1) ++ sboxOut sbox2 (group x 2) ++ sboxOut sbox3 (group x 3) ++ sboxOut sbox4 (group x 4) ++
    sboxOut sbox5 (group x 5) ++ sboxOut sbox6 (group x 6) ++ sboxOut sbox7 (group x 7) ++ sboxOut sbox8 (group x 8)

/-- Straight permutation P (R88). -/
def straightPermute (s : Half) : Half := permute 32 tableP s

/-- The round function `f` (R89). -/
def roundF (r : Half) (k : Subkey) : Half := straightPermute (mixAndSubstitute (expand r) k)

/-- RP_ROUND: mix into the left half, then swap the halves (R90, R92). -/
def rpRound (l r : Half) (k : Subkey) : Half × Half := (r, l ^^^ roundF r k)

/-- RP_LAST: mix into the left half, no swap (R91, R92). -/
def rpLast (l r : Half) (k : Subkey) : Half × Half := (l ^^^ roundF r k, r)

/-- `roundStep`, selected by `rp_last` (R54, R90, R91). -/
def roundStep (l r : Half) (k : Subkey) (last : Bool) : Half × Half :=
  if last then rpLast l r k else rpRound l r k

end Sys2Proof.Machine
end

