-- ==== Sys2Proof/Machine/BlockFunction.lean ====
section
/-! DEFINITION. The block function `processBlock` as the spec's reference function (42_block_driver.md R95 to R99). It
does not mention the machine's state: that the machine computes it is a statement (R104). -/

namespace Sys2Proof.Machine

/-- Initial permutation (R98). -/
def initialPermute (v : Block) : Block := permute 64 tableIP v

/-- Final permutation (R98). -/
def finalPermute (v : Block) : Block := permute 64 tableFP v

/-- The variables of `processBlock`'s loop: `cd`, `l`, `r` (R99). -/
structure LoopVars where
  cd : RoundKey
  l : Half
  r : Half
deriving DecidableEq, Repr

/-- The loop variables before round 0 (R99). -/
def loopInit (block key : Block) : LoopVars :=
  { cd := derivePermutedKey key, l := hi32 (initialPermute block), r := lo32 (initialPermute block) }

/-- The body of the loop for round `j` (R99): rotate, compress, round step; round 15 does not swap. -/
def loopBody (mode : Mode) (x : LoopVars) (j : RoundIndex) : LoopVars :=
  let cd := rotate x.cd j mode
  let k := compress cd
  let lr := if j.toNat < 15 then rpRound x.l x.r k else rpLast x.l x.r k
  { cd := cd, l := lr.1, r := lr.2 }

/-- The loop variables after the first `n` rounds (R99). -/
def loopAfter (block key : Block) (mode : Mode) (n : Nat) : LoopVars :=
  (roundIndexes.take n).foldl (loopBody mode) (loopInit block key)

/-- `processBlock(block, key, mode)` (R99). -/
def processBlock (block key : Block) (mode : Mode) : Block :=
  let x := loopAfter block key mode Config.rounds
  finalPermute (joinHalves x.l x.r)

end Sys2Proof.Machine
end

