-- ==== Sys2Proof/Machine/State.lean ====
section
/-! DEFINITION. The state of the bench: the core's registers (10_state.md section 2), a stand-alone key schedule unit, a
stand-alone round processor (10_state.md section 4), and the levels on every input port. All of it is plain data. The
hardware has no memory (20_memory.md R36), so there is no memory field. -/

namespace Sys2Proof.Machine

/-- The four codes of the 2-bit phase register `PHASE` (R21). -/
inductive Phase where
  /-- `00`: no block in progress, no result yet since reset. -/
  | idle
  /-- `01`: a block is in progress. -/
  | run
  /-- `10`: the last block finished. -/
  | done
  /-- `11`: reserved, never written by any rule (R21, R57). -/
  | reserved
deriving DecidableEq, Repr

/-- The registers of one core instance, and the model's own mark that it was reset since power-on. -/
structure CoreRegs where
  /-- `C`: bits 1 to 28 of the round key (R18). -/
  c : KeyHalf
  /-- `D`: bits 29 to 56 of the round key (R18). -/
  d : KeyHalf
  /-- `L` (R19). -/
  l : Half
  /-- `R` (R19). -/
  r : Half
  /-- `RND`, the round the next ROUND step performs (R20). -/
  rnd : RoundIndex
  /-- `PHASE` (R21). -/
  phase : Phase
  /-- `MODE`, the direction of the block in progress or last finished (R22). -/
  mode : Mode
  /-- `OUT` (R23). -/
  out : Block
  /-- DESIGN CHOICE (log entry 3): a step with `rst = 1` has happened since power-on (R132). -/
  wasReset : Bool
deriving DecidableEq, Repr

/-- The levels on the core's input ports (R16). -/
structure CorePorts where
  rst : Bool
  cmd : BitVec 2
  keyIn : Block
  dataIn : Block
deriving DecidableEq, Repr

/-- The registers of a stand-alone key schedule unit: `C` and `D`, its only state (R29). -/
structure KeyRegs where
  c : KeyHalf
  d : KeyHalf
deriving DecidableEq, Repr

/-- The levels on the stand-alone key schedule unit's input ports (R28). -/
structure KeyPorts where
  load : Bool
  step : Bool
  dir : Mode
  rnd : RoundIndex
  key : Block
deriving DecidableEq, Repr

/-- The values on the key schedule unit's output ports in one step (R28). -/
structure KeyOuts where
  cdNext : RoundKey
  subkey : Subkey
deriving DecidableEq, Repr

/-- The levels on the stand-alone round processor's input ports (R30). -/
structure RoundPorts where
  l : Half
  r : Half
  k : Subkey
  last : Bool
deriving DecidableEq, Repr

/-- The values on the round processor's output ports in one step (R30). -/
structure RoundOuts where
  f : Half
  lNext : Half
  rNext : Half
deriving DecidableEq, Repr

/-- Which of the three units the host clocks next (log entry 5). -/
inductive BenchUnit where
  | core
  | ksu
  | rpu
deriving DecidableEq, Repr

/-- What the host drives for one step: the unit it clocks and the levels on that unit's input ports. -/
inductive Drive where
  | core (ports : CorePorts)
  | ksu (ports : KeyPorts)
  | rpu (ports : RoundPorts)
deriving DecidableEq, Repr

/-- The whole bench. -/
structure State where
  /-- The core's registers. -/
  core : CoreRegs
  /-- The levels on the core's input ports during the next step of the core. -/
  corePorts : CorePorts
  /-- The stand-alone key schedule unit's registers. -/
  ksu : KeyRegs
  /-- The levels on its input ports. -/
  ksPorts : KeyPorts
  /-- DESIGN CHOICE (log entry 6): its outputs as they stood during its last step. No operation reads them. -/
  ksSeen : KeyOuts
  /-- The levels on the stand-alone round processor's input ports. -/
  rpPorts : RoundPorts
  /-- DESIGN CHOICE (log entry 6): its outputs as they stood during its last step. No operation reads them; the unit
  itself has no state (R94). -/
  rpSeen : RoundOuts
  /-- The unit that takes the next step. -/
  unit : BenchUnit
  /-- What the host drives in the steps after the next, oldest first (log entry 4). -/
  pending : List Drive
deriving DecidableEq, Repr

/-- No step faults: the core raises no exception, trap or error and has no stuck state (60_exceptions.md R115, R117,
R120). So the type has no constructor and nothing raises it. -/
inductive Fault where
deriving DecidableEq, Repr

/-- Why a step or an instruction has no meaning. -/
inductive Refusal where
  /-- An instruction whose meaning is not written; raised by an arm of `exec` and by nothing else. Safe. -/
  | notModelled (mnemonic : String)
  /-- Raised by the core's NOP, ENC, DEC and ROUND, and by the selection of the core's step, before the first step with
  `rst = 1` since power-on: the spec gives such a step no meaning (70_reset_and_hazards.md R132;
  93_implementation_defined.md U3). Safe. -/
  | beforeFirstReset
  /-- Raised by the same four, and by the selection of the core's step, in `PHASE = 11`, which no rule writes
  (30_encoding.md R57; 93_implementation_defined.md U4). Safe. -/
  | reservedPhase
  /-- Raised by ROUND when the SEQ word it was decoded from is not the one the core's `PHASE` and `RND` form
  (30_encoding.md R52, R55). `step` never meets it: it decodes ROUND from that very word. Safe. -/
  | seqMismatch
deriving DecidableEq, Repr

/-- The bench right after a reset step. `PHASE` is what R33 states. DESIGN CHOICE (log entries 1 to 6): the spec
gives every other register no reset value and the host's port levels are its own; the model names zero for each, and a
quiet host. -/
def State.reset : State where
  core :=
    { c := 0, d := 0, l := 0, r := 0, rnd := 0, phase := .idle, mode := .encrypt, out := 0, wasReset := true }
  corePorts := { rst := false, cmd := 0, keyIn := 0, dataIn := 0 }
  ksu := { c := 0, d := 0 }
  ksPorts := { load := false, step := false, dir := .encrypt, rnd := 0, key := 0 }
  ksSeen := { cdNext := 0, subkey := 0 }
  rpPorts := { l := 0, r := 0, k := 0, last := false }
  rpSeen := { f := 0, lNext := 0, rNext := 0 }
  unit := .core
  pending := []

end Sys2Proof.Machine
end

