-- ==== Sys2Proof/Machine/Ops.lean ====
section
/-! DEFINITION. The named operations over the registers: the register writes of the core's three writing steps (LOAD,
ROUND, RESET), the writes of the stand-alone units, the host's port levels, and the check that a step of the core has a
meaning at all. A register an operation does not mention keeps its value (42_block_driver.md section 3).

There is no operation that takes an exception and none that returns from one: the core has neither
(60_exceptions.md R115, R117, R120, R121). -/

namespace Sys2Proof.Machine

/-- The core's round key `C ‖ D` (R18). -/
def CoreRegs.cd (k : CoreRegs) : RoundKey := joinKey k.c k.d

/-- The stand-alone unit's round key `C ‖ D` (R29). -/
def KeyRegs.cd (k : KeyRegs) : RoundKey := joinKey k.c k.d

/-- The LOAD step's writes: the halves of `IP(data_in)`, the halves of `PC1(key_in)`, `MODE <- m`, `RND <- 0`,
`PHASE <- RUN`; `OUT` is not written (R100). -/
def CoreRegs.load (m : Mode) (key data : Block) (k : CoreRegs) : CoreRegs :=
  let x := initialPermute data
  let cd := derivePermutedKey key
  { k with l := hi32 x, r := lo32 x, c := hi28 cd, d := lo28 cd, mode := m, rnd := 0, phase := .run }

/-- The ROUND step's writes (R101), every read at the step's start (R14). The key is rotated before it is compressed
(R136); round 15 does not swap, writes `OUT` and ends the block. -/
def CoreRegs.round (k : CoreRegs) : CoreRegs :=
  let j := k.rnd
  let cd' := rotate k.cd j k.mode
  let lr := roundStep k.l k.r (compress cd') (decide (j = 15))
  if j.toNat < 15 then
    { k with c := hi28 cd', d := lo28 cd', l := lr.1, r := lr.2, rnd := j + 1 }
  else
    { k with
      c := hi28 cd', d := lo28 cd', l := lr.1, r := lr.2, rnd := 0,
      out := finalPermute (joinHalves lr.1 lr.2), phase := .done }

/-- The RESET step's writes: `PHASE <- IDLE` and no other register (R131); the model marks that a reset happened
(log entry 3). -/
def CoreRegs.toIdle (k : CoreRegs) : CoreRegs := { k with phase := .idle, wasReset := true }

/-- Split a round key into the stand-alone unit's `C` and `D` (R64, R75, R76). -/
def KeyRegs.ofKey (cd : RoundKey) : KeyRegs := { c := hi28 cd, d := lo28 cd }

/-- Replace the core's registers. -/
def State.setCore (s : State) (k : CoreRegs) : State := { s with core := k }

/-- Replace the stand-alone key schedule unit's registers. -/
def State.setKsu (s : State) (k : KeyRegs) : State := { s with ksu := k }

/-- Sample the key schedule unit's outputs (log entry 6). -/
def State.seeKs (s : State) (o : KeyOuts) : State := { s with ksSeen := o }

/-- Sample the round processor's outputs (log entry 6). -/
def State.seeRp (s : State) (o : RoundOuts) : State := { s with rpSeen := o }

/-- The host drives a unit's ports: that unit takes the next step, and the other units' ports keep their levels. -/
def State.drive (s : State) (d : Drive) : State :=
  match d with
  | .core p => { s with corePorts := p, unit := .core }
  | .ksu p => { s with ksPorts := p, unit := .ksu }
  | .rpu p => { s with rpPorts := p, unit := .rpu }

/-- At the end of a step the host drives what it has pending; with nothing pending the port levels stay
(DESIGN CHOICE, log entry 4). -/
def State.advanceInputs (s : State) : State :=
  match s.pending with
  | [] => s
  | d :: ds => { s.drive d with pending := ds }

/-- A step of the core other than RESET has a meaning only after the first reset (R132) and not in the reserved phase
(R57). -/
def State.whenDefined (s : State) (o : Host.Outcome State Fault Refusal) : Host.Outcome State Fault Refusal :=
  if s.core.wasReset then
    match s.core.phase with
    | .idle => o
    | .run => o
    | .done => o
    | .reserved => .refused .reservedPhase
  else .refused .beforeFirstReset

end Sys2Proof.Machine
end

