-- ==== Sys2Proof/Machine/BlockDriver.lean ====
section
/-! DEFINITION. The meanings of the core's operations: NOP, ENC, DEC, ROUND, RESET (42_block_driver.md section 3;
70_reset_and_hazards.md R131). -/

namespace Sys2Proof.Machine

/-- LOAD(m) in IDLE and DONE, no effect in RUN (R100, R102, R103, R106). -/
def State.command (m : Mode) (s : State) : Host.Outcome State Fault Refusal :=
  s.whenDefined (.next
    (if s.core.phase = .run then s
     else s.setCore (s.core.load m s.corePorts.keyIn s.corePorts.dataIn)))

/-- NOP, the HOLD step: no register write; `m` is ignored (R50, R105). While busy it has no effect either (R106). -/
def execNop (_m : Bool) (s : State) : Host.Outcome State Fault Refusal :=
  s.whenDefined (.next s)

/-- ENC (R102). -/
def execEnc (s : State) : Host.Outcome State Fault Refusal := s.command .encrypt

/-- DEC (R103). -/
def execDec (s : State) : Host.Outcome State Fault Refusal := s.command .decrypt

/-- ROUND of round `r`, the step of the SEQ word `01 ‖ r`, which is the core's own `PHASE ‖ RND` (R52, R101). -/
def execRound (r : RoundIndex) (s : State) : Host.Outcome State Fault Refusal :=
  s.whenDefined
    (if s.core.phase = .run ∧ s.core.rnd = r then .next (s.setCore s.core.round)
     else .refused .seqMismatch)

/-- RESET: in every phase and before the first reset too; `cmd` is ignored (R118, R131). -/
def execReset (_cmd : BitVec 2) (s : State) : Host.Outcome State Fault Refusal :=
  .next (s.setCore s.core.toIdle)

end Sys2Proof.Machine
end

