-- ==== Sys2Proof/Machine/Flags.lean ====
section
/-! DEFINITION. The outputs, which have no storage of their own: the status outputs `busy` and `done`, `data_out`, and
the combinational outputs of the two stand-alone units (10_state.md R24 to R26, R28, R30). The outputs of a step are
functions of the state at its start (20_memory.md R44). There are no condition codes (R27). -/

namespace Sys2Proof.Machine

/-- `busy = (PHASE = RUN)` (R24). -/
def State.busy (s : State) : Bool := decide (s.core.phase = .run)

/-- `done = (PHASE = DONE)` (R25). -/
def State.done (s : State) : Bool := decide (s.core.phase = .done)

/-- `data_out = OUT` at every step (R26). -/
def State.dataOut (s : State) : Block := s.core.out

/-- The key schedule unit's outputs for a direction and a round index: `ks_cd_next = rotate(C ‖ D, ks_rnd, ks_dir)` and
`ks_subkey = compress(ks_cd_next)`, whatever the control word (R28, R74). -/
def KeyRegs.outs (k : KeyRegs) (dir : Mode) (rnd : RoundIndex) : KeyOuts :=
  { cdNext := rotate k.cd rnd dir, subkey := compress (rotate k.cd rnd dir) }

/-- The stand-alone key schedule unit's outputs (R28). -/
def State.ksOuts (s : State) : KeyOuts := s.ksu.outs s.ksPorts.dir s.ksPorts.rnd

/-- The round processor's outputs for a value of `rp_last`: `rp_f = f(rp_r, rp_k)` and `roundStep` (R30). -/
def RoundPorts.outs (p : RoundPorts) (last : Bool) : RoundOuts :=
  let lr := roundStep p.l p.r p.k last
  { f := roundF p.r p.k, lNext := lr.1, rNext := lr.2 }

/-- The stand-alone round processor's outputs (R30). -/
def State.rpOuts (s : State) : RoundOuts := s.rpPorts.outs s.rpPorts.last

end Sys2Proof.Machine
end

