-- ==== Sys2Proof/Machine/KeyUnit.lean ====
section
/-! DEFINITION. The meanings of the stand-alone key schedule unit's operations (40_key_schedule.md section 5). In every
step the unit shows its outputs, computed from the register as it was at the step's start (R28, R74); the model samples
them (log entry 6). -/

namespace Sys2Proof.Machine

/-- KS_HOLD: no register write (R74). -/
def execKsHold (dir : Mode) (rnd : RoundIndex) (s : State) : Host.Outcome State Fault Refusal :=
  .next (s.seeKs (s.ksu.outs dir rnd))

/-- KS_STEP: `C ‖ D <- rotate(C ‖ D, ks_rnd, ks_dir)` (R76). -/
def execKsStep (dir : Mode) (rnd : RoundIndex) (s : State) : Host.Outcome State Fault Refusal :=
  .next ((s.seeKs (s.ksu.outs dir rnd)).setKsu (KeyRegs.ofKey (rotate s.ksu.cd rnd dir)))

/-- KS_LOAD: `C ‖ D <- PC1(ks_key)`; load wins over step, and direction and index only reach the outputs (R75). -/
def execKsLoad (_step : Bool) (dir : Mode) (rnd : RoundIndex) (s : State) : Host.Outcome State Fault Refusal :=
  .next ((s.seeKs (s.ksu.outs dir rnd)).setKsu (KeyRegs.ofKey (derivePermutedKey s.ksPorts.key)))

end Sys2Proof.Machine
end

