-- ==== Sys2Proof/Machine/RoundUnit.lean ====
section
/-! DEFINITION. The meanings of the stand-alone round processor's operations (41_feistel_round.md R90, R91). The unit is
combinational and has no state (R94): an operation changes what the outputs show, which the model samples
(log entry 6). -/

namespace Sys2Proof.Machine

/-- RP_ROUND on `rp_l`, `rp_r`, `rp_k` (R90). -/
def execRpRound (s : State) : Host.Outcome State Fault Refusal :=
  .next (s.seeRp (s.rpPorts.outs false))

/-- RP_LAST on `rp_l`, `rp_r`, `rp_k` (R91). -/
def execRpLast (s : State) : Host.Outcome State Fault Refusal :=
  .next (s.seeRp (s.rpPorts.outs true))

end Sys2Proof.Machine
end

