-- ==== Sys2Proof/Syntax.lean ====
section
/-! DEFINITION. The operations of spec/opcode_table.json, one constructor per row. Every operand a control word carries
is a field, the ignored bits too, so that no bit of an encoding is dropped. The data operands (keys, blocks, halves,
subkeys) come from ports and registers and are in no control word (30_encoding.md R56). -/

namespace Sys2Proof

inductive Instr where
  /-- NOP, CMD `0m`: `m` is `cmd[0]`, ignored (R50, R105). -/
  | nop (m : Bool)
  /-- ENC, CMD `10` (R102). -/
  | enc
  /-- DEC, CMD `11` (R103). -/
  | dec
  /-- ROUND, SEQ `01rrrr`: `r` is the round index `RND` (R52, R101). -/
  | round (r : RoundIndex)
  /-- RESET, script line `1xx`: `cmd` is the command word, ignored (R60, R131). -/
  | reset (cmd : BitVec 2)
  /-- KS_HOLD, KSCTL `00drrrr` (R53, R74). -/
  | ksHold (dir : Mode) (rnd : RoundIndex)
  /-- KS_STEP, KSCTL `01drrrr` (R53, R76). -/
  | ksStep (dir : Mode) (rnd : RoundIndex)
  /-- KS_LOAD, KSCTL `1sdrrrr`: `step` is `ks_step`, ignored; `dir` and `rnd` are not used by the register write
  (R53, R75). -/
  | ksLoad (step : Bool) (dir : Mode) (rnd : RoundIndex)
  /-- RP_ROUND, RPCTL `0` (R54, R90). -/
  | rpRound
  /-- RP_LAST, RPCTL `1` (R54, R91). -/
  | rpLast
deriving DecidableEq, Repr

end Sys2Proof
end

