-- ==== Sys2Proof/Machine/Dispatch.lean ====
section
/-! DEFINITION. One arm per operation of the opcode table. -/

namespace Sys2Proof.Machine

def exec (i : Instr) (s : State) : Host.Outcome State Fault Refusal :=
  match i with
  | .nop m => Sys2Proof.Machine.execNop m s
  | .enc => Sys2Proof.Machine.execEnc s
  | .dec => Sys2Proof.Machine.execDec s
  | .round r => Sys2Proof.Machine.execRound r s
  | .reset cmd => Sys2Proof.Machine.execReset cmd s
  | .ksHold dir rnd => Sys2Proof.Machine.execKsHold dir rnd s
  | .ksStep dir rnd => Sys2Proof.Machine.execKsStep dir rnd s
  | .ksLoad step dir rnd => Sys2Proof.Machine.execKsLoad step dir rnd s
  | .rpRound => Sys2Proof.Machine.execRpRound s
  | .rpLast => Sys2Proof.Machine.execRpLast s

end Sys2Proof.Machine
end

