-- ==== Sys2Proof/WellFormed.lean ====
section
/-! DEFINITION. Which control words have the form 30_encoding.md R49 gives them, and which instructions are well formed.
Every operand of an instruction has exactly the width of its field in the control word, so no instruction is ill formed;
a control word, which comes from outside as a number, can be. -/

namespace Sys2Proof

/-- The width of a format in bits (R49; the script line's three bits: R60). -/
def Format.width : Format → Nat
  | .cmd => 2
  | .seq => 6
  | .script => 3
  | .ksctl => 7
  | .rpctl => 1

/-- A control word fits its format's fixed width (R49, R59). -/
def CtlWord.wf (w : CtlWord) : Bool :=
  decide (w.bits < 2 ^ w.fmt.width)

/-- An instruction is well formed. The types of the constructors' fields are the fields' widths (R50 to R54), so every
one is; one line per constructor, so that a new constructor must say what it asks. -/
def Instr.wf : Instr → Bool
  | .nop _ => true
  | .enc => true
  | .dec => true
  | .round _ => true
  | .reset _ => true
  | .ksHold _ _ => true
  | .ksStep _ _ => true
  | .ksLoad _ _ _ => true
  | .rpRound => true
  | .rpLast => true

end Sys2Proof
end

