-- ==== Sys2Proof/Decode.lean ====
section
/-! DEFINITION. Decoding and encoding of the control words (30_encoding.md R49 to R59; opcode_table.json). Each format
has a total decoder on its own width; `decode` takes any number under any format and rejects by name. -/

namespace Sys2Proof

/-- Why a control word names no operation by itself. -/
inductive DecodeReject where
  /-- The number has more bits than the format (R49). -/
  | tooWide (fmt : Format)
  /-- SEQ `00xxxx` or `10xxxx`: in IDLE and DONE the CMD word selects the step, not the SEQ word (R52, R55). -/
  | selectedByCmd
  /-- SEQ `11xxxx` is reserved (R57). -/
  | seqReserved
deriving DecidableEq, Repr

/-- What the decoder answers for a control word. -/
inductive Decoded where
  /-- The word selects this operation. -/
  | op (i : Instr)
  /-- The word selects none, and why. -/
  | reject (why : DecodeReject)
deriving DecidableEq, Repr

/-- Mode values: 0 is encrypt, 1 is decrypt, everywhere (R51). -/
def Mode.ofBit (b : Bool) : Mode := if b then .decrypt else .encrypt

/-- The bit of a mode (R51). -/
def Mode.toBit : Mode → Bool
  | .encrypt => false
  | .decrypt => true

/-- CMD: bit 1 is `start`, bit 0 is `mode` (R50). -/
def decodeCmd (w : BitVec 2) : Instr :=
  if w.getLsbD 1 then (if w.getLsbD 0 then .dec else .enc) else .nop (w.getLsbD 0)

/-- SEQ: bits 5..4 are `PHASE`, bits 3..0 are `RND` (R52). -/
def decodeSeq (w : BitVec 6) : Decoded :=
  if w.getLsbD 5 then (if w.getLsbD 4 then .reject .seqReserved else .reject .selectedByCmd)
  else if w.getLsbD 4 then .op (.round (w.extractLsb' 0 4)) else .reject .selectedByCmd

/-- Script line: bit 2 is `rst`, bits 1..0 are `cmd` (R60); `rst` has priority (R118). -/
def decodeScript (w : BitVec 3) : Instr :=
  if w.getLsbD 2 then .reset (w.extractLsb' 0 2) else decodeCmd (w.extractLsb' 0 2)

/-- KSCTL: bit 6 is `ks_load`, bit 5 `ks_step`, bit 4 `ks_dir`, bits 3..0 `ks_rnd`; load has priority (R53). -/
def decodeKsctl (w : BitVec 7) : Instr :=
  let dir := Mode.ofBit (w.getLsbD 4)
  let rnd := w.extractLsb' 0 4
  if w.getLsbD 6 then .ksLoad (w.getLsbD 5) dir rnd
  else if w.getLsbD 5 then .ksStep dir rnd
  else .ksHold dir rnd

/-- RPCTL: the one bit is `rp_last` (R54). -/
def decodeRpctl (w : BitVec 1) : Instr :=
  if w.getLsbD 0 then .rpLast else .rpRound

/-- The decoder, total on any number under any format. -/
def decode (w : CtlWord) : Decoded :=
  if w.wf then
    match w.fmt with
    | .cmd => .op (decodeCmd (BitVec.ofNat 2 w.bits))
    | .seq => decodeSeq (BitVec.ofNat 6 w.bits)
    | .script => .op (decodeScript (BitVec.ofNat 3 w.bits))
    | .ksctl => .op (decodeKsctl (BitVec.ofNat 7 w.bits))
    | .rpctl => .op (decodeRpctl (BitVec.ofNat 1 w.bits))
  else .reject (.tooWide w.fmt)

/-- The word of an instruction, from the encodings of R50 to R54 and R60. -/
def encode : Instr → CtlWord
  | .nop m => ⟨.cmd, m.toNat⟩
  | .enc => ⟨.cmd, 0b10⟩
  | .dec => ⟨.cmd, 0b11⟩
  | .round r => ⟨.seq, 0b010000 + r.toNat⟩
  | .reset cmd => ⟨.script, 0b100 + cmd.toNat⟩
  | .ksHold dir rnd => ⟨.ksctl, 0b0000000 + 16 * dir.toBit.toNat + rnd.toNat⟩
  | .ksStep dir rnd => ⟨.ksctl, 0b0100000 + 16 * dir.toBit.toNat + rnd.toNat⟩
  | .ksLoad step dir rnd => ⟨.ksctl, 0b1000000 + 32 * step.toNat + 16 * dir.toBit.toNat + rnd.toNat⟩
  | .rpRound => ⟨.rpctl, 0⟩
  | .rpLast => ⟨.rpctl, 1⟩

/-- DESIGN CHOICE (log entry 7): the format of a bare table word. The formats are separate ports in the hardware, and a
number alone does not say which port it is on. Where `nbits` is the exact width of one format, that format is meant;
otherwise the format is the first row's, in the table's own order, whose width holds the number and whose mask and
match the number meets. -/
def tableFormat (nbits w : Nat) : Option Format :=
  match nbits with
  | 1 => some .rpctl
  | 2 => some .cmd
  | 3 => some .script
  | 6 => some .seq
  | 7 => some .ksctl
  | _ =>
    if w < 4 then some .cmd
    else if 16 ≤ w ∧ w < 32 then some .seq
    else if w < 8 then some .script
    else if w < 128 then some .ksctl
    else none

/-- The control word of a bare table word. -/
def tableWord (nbits w : Nat) : Option CtlWord :=
  match tableFormat nbits w with
  | some f => some ⟨f, w⟩
  | none => none

/-- The instruction the decoder reads from a bare table word (none where it refuses). -/
def decodeTableWord (nbits w : Nat) : Option Instr :=
  match tableWord nbits w with
  | some cw =>
    match decode cw with
    | .op i => some i
    | .reject _ => none
  | none => none

end Sys2Proof
end

