-- ==== Sys2Proof/Machine/Operands.lean ====
section
/-! DEFINITION. Where a step's operands come from (30_encoding.md R56): the control words the ports and registers form,
and the selection of the step by them (R55). -/

namespace Sys2Proof.Machine

/-- The code of a phase (R21). -/
def Phase.toBits : Phase → BitVec 2
  | .idle => 0b00
  | .run => 0b01
  | .done => 0b10
  | .reserved => 0b11

/-- The phase of a code (R21). -/
def Phase.ofBits (b : BitVec 2) : Phase :=
  if b.getLsbD 1 then (if b.getLsbD 0 then .reserved else .done)
  else (if b.getLsbD 0 then .run else .idle)

/-- The SEQ word `PHASE ‖ RND` (R52). -/
def State.seqWord (s : State) : BitVec 6 := s.core.phase.toBits ++ s.core.rnd

/-- The script word `rst ‖ cmd` (R60). -/
def State.scriptWord (s : State) : BitVec 3 := BitVec.ofBool s.corePorts.rst ++ s.corePorts.cmd

/-- The KSCTL word `ks_load ‖ ks_step ‖ ks_dir ‖ ks_rnd` (R53). -/
def State.ksctlWord (s : State) : BitVec 7 :=
  BitVec.ofBool s.ksPorts.load ++ BitVec.ofBool s.ksPorts.step ++ BitVec.ofBool s.ksPorts.dir.toBit ++ s.ksPorts.rnd

/-- The RPCTL word `rp_last` (R54). -/
def State.rpctlWord (s : State) : BitVec 1 := BitVec.ofBool s.rpPorts.last

/-- What the selection of a step answers. -/
inductive Selected where
  /-- The step performs this operation. -/
  | op (i : Instr)
  /-- The step has no meaning, and why. -/
  | refuse (r : Refusal)
deriving DecidableEq, Repr

/-- The core's step, in the order of the decode table R55: `rst`, then the round in progress, then the command
(R118). -/
def State.selectCore (s : State) : Selected :=
  if s.corePorts.rst then .op (decodeScript s.scriptWord)
  else if s.core.wasReset then
    match decodeSeq s.seqWord with
    | .op i => .op i
    | .reject .selectedByCmd => .op (decodeCmd s.corePorts.cmd)
    | .reject .seqReserved => .refuse .reservedPhase
    | .reject (.tooWide _) => .refuse .reservedPhase
  else .refuse .beforeFirstReset

/-- The operation the next step performs: that of the unit the host clocks (log entry 5). -/
def State.select (s : State) : Selected :=
  match s.unit with
  | .core => s.selectCore
  | .ksu => .op (decodeKsctl s.ksctlWord)
  | .rpu => .op (decodeRpctl s.rpctlWord)

/-- Put a command word on the core's `cmd`, where the core decodes it: `rst` low, and a phase in which commands are
decoded (IDLE and DONE stay; any other becomes IDLE). -/
def State.placeCmd (s : State) (b : BitVec 2) : State :=
  let ph := match s.core.phase with
    | .idle => Phase.idle
    | .run => Phase.idle
    | .done => Phase.done
    | .reserved => Phase.idle
  { s with
    unit := .core
    corePorts := { s.corePorts with rst := false, cmd := b }
    core := { s.core with phase := ph, wasReset := true } }

/-- Put a control word where the next step takes it from: on the ports of its unit, and for a SEQ word in `PHASE` and
`RND` themselves (R52). -/
def State.place (s : State) (w : CtlWord) : State :=
  match w.fmt with
  | .cmd => s.placeCmd (BitVec.ofNat 2 w.bits)
  | .seq =>
    let b := BitVec.ofNat 6 w.bits
    { s with
      unit := .core
      corePorts := { s.corePorts with rst := false }
      core := { s.core with phase := Phase.ofBits (b.extractLsb' 4 2), rnd := b.extractLsb' 0 4, wasReset := true } }
  | .script =>
    let b := BitVec.ofNat 3 w.bits
    if b.getLsbD 2 then
      { s with unit := .core, corePorts := { s.corePorts with rst := true, cmd := b.extractLsb' 0 2 } }
    else s.placeCmd (b.extractLsb' 0 2)
  | .ksctl =>
    let b := BitVec.ofNat 7 w.bits
    { s with
      unit := .ksu
      ksPorts := { s.ksPorts with
        load := b.getLsbD 6, step := b.getLsbD 5, dir := Mode.ofBit (b.getLsbD 4), rnd := b.extractLsb' 0 4 } }
  | .rpctl =>
    { s with unit := .rpu, rpPorts := { s.rpPorts with last := (BitVec.ofNat 1 w.bits).getLsbD 0 } }

end Sys2Proof.Machine
end

