-- ==== Sys2Proof/Machine/Step.lean ====
section
/-! DEFINITION. One step of the bench: the unit the host clocks performs the operation its control word selects, and
then the host's next port levels arrive (00_scope.md R14; 30_encoding.md R55). -/

namespace Sys2Proof.Machine

def step (s : State) : Host.Outcome State Fault Refusal :=
  match s.select with
  | .refuse r => .refused r
  | .op i =>
    match exec i s with
    | .next t => .next t.advanceInputs
    | .fault f => .fault f
    | .refused r => .refused r

/-- The word of a table row put where the next step takes its control word from (log entry 7). A number that is no word
of any format leaves the state as it is. -/
def State.withFetchWord (s : State) (nbits w : Nat) : State :=
  match tableWord nbits w with
  | some cw => s.place cw
  | none => s

end Sys2Proof.Machine
end

