-- ==== Sys2Proof/Machine/Host.lean ====
section
/-! DEFINITION. The host's side, which is no part of the core (00_scope.md R6): the reference functions over byte buffers
with their one error condition (42_block_driver.md R107, R108; 60_exceptions.md R116, R119), and the script notation with
its pseudo-instructions (30_encoding.md R60, R61). -/

namespace Sys2Proof.Machine

/-! ### Bytes and blocks -/

/-- The value of a byte sequence, its first byte most significant (20_memory.md R37). -/
def bytesToNat (bs : List Byte) : Nat := bs.foldl (fun acc b => 256 * acc + b.toNat) 0

/-- The 64-bit value of eight bytes, the first byte most significant (R37). -/
def blockOfBytes (bs : List Byte) : Block := BitVec.ofNat 64 (bytesToNat bs)

/-- Byte `b` (0 to 7) of a block: `v[63-8b : 56-8b]` (R37). -/
def byteOf (v : Block) (b : Nat) : Byte := v.extractLsb' (56 - 8 * b) 8

/-- The eight bytes of a block, in order (R37). -/
def bytesOfBlock (v : Block) : List Byte := [0, 1, 2, 3, 4, 5, 6, 7].map (byteOf v)

/-! ### The reference functions -/

/-- Which operand of a host-side call had a wrong length (R116). -/
inductive LengthOperand where
  | key
  | block
deriving DecidableEq, Repr

/-- What a host-side call answers: its bytes, or the error condition `InvalidInputLength` of an operand, in which case
the call has no result (R116; 93_implementation_defined.md U6). -/
inductive HostResult where
  | bytes (out : List Byte)
  | invalidInputLength (operand : LengthOperand)
deriving DecidableEq, Repr

/-- `processBlock` as called from the host, with byte strings: the key's length is checked first (R116, R119). -/
def processBlockBytes (block key : List Byte) (mode : Mode) : HostResult :=
  if key.length ≠ 8 then .invalidInputLength .key
  else if block.length ≠ 8 then .invalidInputLength .block
  else .bytes (bytesOfBlock (processBlock (blockOfBytes block) (blockOfBytes key) mode))

/-- The filler byte, ASCII '0' (R107; 90_conflicts.md C5). -/
def fillerByte : Byte := 0x30

/-- The number of filler bytes of a buffer of `n` bytes (R107). -/
def padCount (n : Nat) : Nat := if n % 8 = 0 then 0 else 8 - n % 8

/-- Padding to a whole number of blocks, in both modes (R107). -/
def pad (buf : List Byte) : List Byte := buf ++ List.replicate (padCount buf.length) fillerByte

/-- Block after block, `n` of them, each on its own (R108, R110). -/
def mapBlocks (key : Block) (mode : Mode) : Nat → List Byte → List Byte
  | 0, _ => []
  | n + 1, bs => bytesOfBlock (processBlock (blockOfBytes (bs.take 8)) key mode) ++ mapBlocks key mode n (bs.drop 8)

/-- `processBuffer` (R108). Padding is never stripped (R112). -/
def processBuffer (buf key : List Byte) (mode : Mode) : HostResult :=
  if key.length ≠ 8 then .invalidInputLength .key
  else .bytes (mapBlocks (blockOfBytes key) mode ((pad buf).length / 8) (pad buf))

/-! ### Host memory -/

/-- `MemRead(addr, 8)` of a host buffer (00_scope.md R15); nothing where the buffer has no such eight bytes
(DESIGN CHOICE, log entry 8). -/
def memRead8 (buf : List Byte) (addr : Nat) : Option Block :=
  if addr + 8 ≤ buf.length then some (blockOfBytes ((buf.drop addr).take 8)) else none

/-- `MemWrite(addr, 8, v)` of a host buffer (R15); nothing where the buffer has no such eight bytes (log entry 8). -/
def memWrite8 (buf : List Byte) (addr : Nat) (v : Block) : Option (List Byte) :=
  if addr + 8 ≤ buf.length then some (buf.take addr ++ bytesOfBlock v ++ buf.drop (addr + 8)) else none

/-! ### Scripts -/

/-- A key or block operand of a script line: a literal or a host variable (R60, R61). Variables are numbered. -/
inductive HostValue where
  | lit (v : Block)
  | var (x : Nat)
deriving DecidableEq, Repr

/-- A line of a host script (R60, R61). `label` marks a place a BLT can name. -/
inductive HostLine where
  | rst
  | nop
  | enc (k d : HostValue)
  | dec (k d : HostValue)
  | wait
  | rd (x : Nat)
  | ldb (d a : Nat)
  | stb (a x : Nat)
  | add (a n : Nat)
  | blt (a n lbl : Nat)
  | label (lbl : Nat)
deriving DecidableEq, Repr

/-- `ENCB x, k, d` (R61). -/
def encb (x : Nat) (k d : HostValue) : List HostLine := [.enc k d, .wait, .rd x]

/-- `DECB x, k, d` (R61). -/
def decb (x : Nat) (k d : HostValue) : List HostLine := [.dec k d, .wait, .rd x]

/-- The host's own state beside the device it drives. -/
structure HostState where
  device : State
  /-- Host variables that hold blocks; a later entry of a number hides an earlier one. -/
  vars : List (Nat × Block)
  /-- Host variables that hold buffer offsets. -/
  offsets : List (Nat × Nat)
  inBuf : List Byte
  outBuf : List Byte
  /-- The index of the next script line. -/
  line : Nat
deriving DecidableEq, Repr

/-- Why a script line has no result. -/
inductive HostRefusal where
  /-- The device refused the step. Safe. -/
  | device (r : Refusal)
  /-- A host variable that no line has set. Safe. -/
  | unsetVariable (x : Nat)
  /-- A host buffer access outside the buffer. Safe. -/
  | outsideBuffer (addr : Nat)
  /-- A BLT to a label the script does not have. Safe. -/
  | unknownLabel (lbl : Nat)
  /-- The script has no such line. Safe. -/
  | endOfScript
deriving DecidableEq, Repr

/-- Look a numbered variable up. -/
def lookupVar {α : Type} : List (Nat × α) → Nat → Option α
  | [], _ => none
  | (y, v) :: rest, x => if y = x then some v else lookupVar rest x

/-- The value of an operand. -/
def HostState.value (h : HostState) : HostValue → Option Block
  | .lit v => some v
  | .var x => lookupVar h.vars x

/-- Drive the device's top-level ports for one step, and go on at `next`. -/
def HostState.drive (h : HostState) (p : CorePorts) (next : Nat) : Host.Outcome HostState Fault HostRefusal :=
  match step (h.device.drive (.core p)) with
  | .next t => .next { h with device := t, line := next }
  | .fault f => .fault f
  | .refused r => .refused (.device r)

/-- Port levels of a line that gives `key_in` and `data_in` no value: they stay (R60, "any"). -/
def HostState.quiet (h : HostState) (rst : Bool) : CorePorts :=
  { h.device.corePorts with rst := rst, cmd := 0b00 }

/-- The index of a label's line, counted from `i`. DESIGN CHOICE (log entry 8): where a label stands on several lines, the
first of them; the spec says only that BLT branches to the label (R61). -/
def findLabel : List HostLine → Nat → Nat → Option Nat
  | [], _, _ => none
  | l :: rest, lbl, i => if l = .label lbl then some i else findLabel rest lbl (i + 1)

/-- ENC and DEC lines: drive `start` and the mode with the operands' values (R60). -/
def HostState.command (h : HostState) (cmd : BitVec 2) (k d : HostValue) : Host.Outcome HostState Fault HostRefusal :=
  match h.value k, h.value d with
  | some kv, some dv => h.drive { rst := false, cmd := cmd, keyIn := kv, dataIn := dv } (h.line + 1)
  | none, _ => .refused (.unsetVariable (match k with | .var x => x | .lit _ => 0))
  | some _, none => .refused (.unsetVariable (match d with | .var x => x | .lit _ => 0))

/-- One transition of a host running a script. A WAIT line stays where it is while `done = 0`, one device step at a time
(R61); a host-only line takes no device step. -/
def hostStep (script : List HostLine) (h : HostState) : Host.Outcome HostState Fault HostRefusal :=
  match script[h.line]? with
  | none => .refused .endOfScript
  | some .rst => h.drive (h.quiet true) (h.line + 1)
  | some .nop => h.drive (h.quiet false) (h.line + 1)
  | some (.enc k d) => h.command 0b10 k d
  | some (.dec k d) => h.command 0b11 k d
  | some .wait => if h.device.done then .next { h with line := h.line + 1 } else h.drive (h.quiet false) h.line
  | some (.rd x) => .next { h with vars := (x, h.device.dataOut) :: h.vars, line := h.line + 1 }
  | some (.ldb d a) =>
    match lookupVar h.offsets a with
    | none => .refused (.unsetVariable a)
    | some addr =>
      match memRead8 h.inBuf addr with
      | none => .refused (.outsideBuffer addr)
      | some v => .next { h with vars := (d, v) :: h.vars, line := h.line + 1 }
  | some (.stb a x) =>
    match lookupVar h.offsets a, lookupVar h.vars x with
    | none, _ => .refused (.unsetVariable a)
    | some _, none => .refused (.unsetVariable x)
    | some addr, some v =>
      match memWrite8 h.outBuf addr v with
      | none => .refused (.outsideBuffer addr)
      | some buf => .next { h with outBuf := buf, line := h.line + 1 }
  | some (.add a n) =>
    match lookupVar h.offsets a with
    | none => .refused (.unsetVariable a)
    | some addr => .next { h with offsets := (a, addr + n) :: h.offsets, line := h.line + 1 }
  | some (.blt a n lbl) =>
    match lookupVar h.offsets a with
    | none => .refused (.unsetVariable a)
    | some addr =>
      if addr < n then
        match findLabel script lbl 0 with
        | none => .refused (.unknownLabel lbl)
        | some i => .next { h with line := i }
      else .next { h with line := h.line + 1 }
  | some (.label _) => .next { h with line := h.line + 1 }

/-- `n` transitions of a host running a script, stopping at the first refusal. -/
def hostRun (script : List HostLine) : Nat → HostState → Host.Outcome HostState Fault HostRefusal
  | 0, h => .next h
  | n + 1, h =>
    match hostStep script h with
    | .next h' => hostRun script n h'
    | .fault f => .fault f
    | .refused r => .refused r

end Sys2Proof.Machine
end

