-- ==== Sys2Proof/Machine/Instances.lean ====
section
/-! DEFINITION. Several instances side by side (00_scope.md R7; 20_memory.md R48; 60_exceptions.md R126): each has all its
own state and its own ports, and there is no signal between them. -/

namespace Sys2Proof.Machine

/-- One step of every instance, each on its own state (R48). What one instance answers reaches no other. -/
def stepInstances (cfg : Config.Instances) (cores : Vector State cfg.nCores) :
    Vector (Host.Outcome State Fault Refusal) cfg.nCores :=
  cores.map step

end Sys2Proof.Machine
end

