-- ==== Sys2Proof/Safety.lean ====
section
/-! DEFINITION. What counts as a safe run, and the invariants and relations the statements are written in. -/

namespace Sys2Proof.Machine

/-- The core has been reset and is in one of the three phases the rules write: every step has a meaning (R35, R132). -/
abbrev State.Safe (s : State) : Prop := s.core.wasReset = true ∧ s.core.phase ≠ .reserved

/-- A phase in which commands are decoded: IDLE or DONE, after a reset (R55, R118). -/
abbrev State.Ready (s : State) : Prop := s.core.wasReset = true ∧ (s.core.phase = .idle ∨ s.core.phase = .done)

/-- A block is in progress, after a reset (R21, R55). -/
abbrev State.Running (s : State) : Prop := s.core.wasReset = true ∧ s.core.phase = .run

/-- The next step is a LOAD step: the core is clocked out of reset, in IDLE or DONE, with `start` high (R55, R100). -/
abbrev State.LoadsNext (s : State) : Prop :=
  s.unit = .core ∧ s.corePorts.rst = false ∧ s.corePorts.cmd.getLsbD 1 = true ∧ s.Ready

/-- The next step is a ROUND step (R55, R101). -/
abbrev State.RoundsNext (s : State) : Prop := s.unit = .core ∧ s.corePorts.rst = false ∧ s.Running

/-- The next step is a RESET step (R55, R131). -/
abbrev State.ResetsNext (s : State) : Prop := s.unit = .core ∧ s.corePorts.rst = true

/-- The phase invariant of R35: once reset, `PHASE` is never `11`, and in DONE the round counter is 0. -/
abbrev State.PhaseInv (s : State) : Prop :=
  s.core.wasReset = true → s.core.phase ≠ .reserved ∧ (s.core.phase = .done → s.core.rnd = 0)

/-- The block invariant of R35 and R104, for the block, key and mode sampled at the last LOAD step: in RUN the registers
are the loop variables of `processBlock` after `RND` rounds, and in DONE the output register is its result. -/
abbrev BlockInv (block key : Block) (m : Mode) (s : State) : Prop :=
  s.core.mode = m ∧
  (s.core.phase = .run →
    s.core.cd = (loopAfter block key m s.core.rnd.toNat).cd ∧
    s.core.l = (loopAfter block key m s.core.rnd.toNat).l ∧
    s.core.r = (loopAfter block key m s.core.rnd.toNat).r) ∧
  (s.core.phase = .done → s.core.rnd = 0 ∧ s.core.out = processBlock block key m)

/-- Two states that agree on everything the rules specify (R33, R133): they may differ in `C`, `D`, `L`, `R`, `RND` and
`MODE` outside RUN, and in `OUT` outside DONE. -/
structure State.SameSpecified (s t : State) : Prop where
  wasReset : s.core.wasReset = t.core.wasReset
  phase : s.core.phase = t.core.phase
  running : s.core.phase = .run →
    s.core.c = t.core.c ∧ s.core.d = t.core.d ∧ s.core.l = t.core.l ∧ s.core.r = t.core.r ∧
    s.core.rnd = t.core.rnd ∧ s.core.mode = t.core.mode
  finished : s.core.phase = .done → s.core.out = t.core.out
  rest : s.setCore t.core = t

/-- A host drive that clocks the core out of reset. -/
def Drive.NoReset (d : Drive) : Prop :=
  match d with
  | .core p => p.rst = false
  | .ksu _ => False
  | .rpu _ => False

/-- A whole pass of Feistel rounds under a list of subkeys: RP_ROUND for each but the last, RP_LAST for the last
(R93). -/
def feistelPass : List Subkey → Half × Half → Half × Half
  | [], x => x
  | [k], x => rpLast x.1 x.2 k
  | k :: k' :: ks, x => feistelPass (k' :: ks) (rpRound x.1 x.2 k)

/-- A half of the permuted key that every rotation leaves alone: all zeros or all ones (R79). -/
abbrev ConstantHalf (x : KeyHalf) : Prop := x = 0 ∨ x = BitVec.allOnes 28

end Sys2Proof.Machine
end

