-- ==== Sys2Proof/Certificates/Slice0/Obligations.lean ====
section
/-! DEFINITION. The statements for the provers. Each docstring names the rule of spec/ it formalises. A free variable
`s : State` ranges over every state, those that no run reaches too; a premise on the state is written out. -/

open Sys2Proof Sys2Proof.Machine

/-! ### Encoding -/

/-- Decode and encode agree: the word of an instruction fits its format and decodes to that instruction, every operand
at every value (R49 to R54, R59, R60). The third clause is the model's own: the same word, as a bare table word of its
exact width, is read under its format (log entry 7, DESIGN CHOICE). -/
def Obligations.DecodeOfEncode : Prop :=
  ∀ i : Instr, (encode i).wf = true ∧ decode (encode i) = .op i ∧
    decodeTableWord (encode i).fmt.width (encode i).bits = some i

/-- The other direction: a word that decodes is the word of its instruction; a script line without `rst` is the command
word it drives (R49 to R54, R60). -/
def Obligations.EncodeOfDecode : Prop :=
  ∀ (w : CtlWord) (i : Instr), decode w = .op i →
    (w.fmt ≠ .script → encode i = w) ∧
    (w.fmt = .script → 4 ≤ w.bits → encode i = w) ∧
    (w.fmt = .script → w.bits < 4 → encode i = ⟨.cmd, w.bits⟩)

/-- R58: every CMD, KSCTL and RPCTL value selects an operation, every round index is a legal round, and nothing traps.
-/
def Obligations.NoIllegalEncodings : Prop :=
  (∀ b : BitVec 2, ∃ i, decode ⟨.cmd, b.toNat⟩ = .op i) ∧
  (∀ b : BitVec 7, ∃ i, decode ⟨.ksctl, b.toNat⟩ = .op i) ∧
  (∀ b : BitVec 1, ∃ i, decode ⟨.rpctl, b.toNat⟩ = .op i) ∧
  (∀ r : RoundIndex, decode ⟨.seq, 16 + r.toNat⟩ = .op (.round r)) ∧
  (∀ (i : Instr) (s : State) (f : Fault), exec i s ≠ .fault f) ∧
  (∀ (s : State) (f : Fault), step s ≠ .fault f)

/-- R53: the fields of the KSCTL word and the priority of load over step. -/
def Obligations.KsctlFields : Prop :=
  ∀ (ld st d : Bool) (r : RoundIndex),
    decode ⟨.ksctl, 64 * ld.toNat + 32 * st.toNat + 16 * d.toNat + r.toNat⟩ =
      .op (if ld then .ksLoad st (if d then .decrypt else .encrypt) r
        else if st then .ksStep (if d then .decrypt else .encrypt) r
        else .ksHold (if d then .decrypt else .encrypt) r)

/-- R52: the SEQ word is `PHASE ‖ RND`; `01rrrr` selects ROUND of round `rrrr`, `00xxxx` and `10xxxx` leave the step to
the CMD word (with `rst` low, after a reset), and `11xxxx` is reserved. -/
def Obligations.SequencerWord : Prop :=
  ∀ s : State,
    (s.core.phase = .idle ∨ s.core.phase = .done → s.unit = .core → s.corePorts.rst = false →
      s.core.wasReset = true → s.select = .op (decodeCmd s.corePorts.cmd)) ∧
    (s.core.phase = .run → s.unit = .core → s.corePorts.rst = false → s.core.wasReset = true →
      s.select = .op (.round s.core.rnd)) ∧
    (s.core.phase = .idle → s.seqWord.toNat = s.core.rnd.toNat ∧
      decode ⟨.seq, s.seqWord.toNat⟩ = .reject .selectedByCmd) ∧
    (s.core.phase = .run → s.seqWord.toNat = 16 + s.core.rnd.toNat ∧
      decode ⟨.seq, s.seqWord.toNat⟩ = .op (.round s.core.rnd)) ∧
    (s.core.phase = .done → s.seqWord.toNat = 32 + s.core.rnd.toNat ∧
      decode ⟨.seq, s.seqWord.toNat⟩ = .reject .selectedByCmd) ∧
    (s.core.phase = .reserved → s.seqWord.toNat = 48 + s.core.rnd.toNat ∧
      decode ⟨.seq, s.seqWord.toNat⟩ = .reject .seqReserved)

/-- A few words written out from the spec's encodings decode to what they stand for: `01` and `00` NOP, `10` ENC, `11`
DEC, `011011` ROUND 11, `100` RESET and `011` DEC as script lines, the KSCTL words of V12 and V13, and the two RPCTL
words (R50, R52, R53, R54, R60). -/
def Obligations.SampleWordsDecode : Prop :=
  decode ⟨.cmd, 0b00⟩ = .op (.nop false) ∧ decode ⟨.cmd, 0b01⟩ = .op (.nop true) ∧
  decode ⟨.cmd, 0b10⟩ = .op .enc ∧ decode ⟨.cmd, 0b11⟩ = .op .dec ∧
  decode ⟨.seq, 0b011011⟩ = .op (.round 11) ∧
  decode ⟨.script, 0b100⟩ = .op (.reset 0) ∧ decode ⟨.script, 0b011⟩ = .op .dec ∧
  decode ⟨.ksctl, 0b1100101⟩ = .op (.ksLoad true .encrypt 5) ∧
  decode ⟨.ksctl, 0b0110001⟩ = .op (.ksStep .decrypt 1) ∧
  decode ⟨.ksctl, 0b0010001⟩ = .op (.ksHold .decrypt 1) ∧
  decode ⟨.rpctl, 0⟩ = .op .rpRound ∧ decode ⟨.rpctl, 1⟩ = .op .rpLast

/-! ### A step runs the selected operation -/

/-- A step runs the selected operation, which completes, and then lets the host's next port levels arrive: the oldest
pending drive, or the levels as they are where none is pending (log entry 4). Where the selection refuses, so does the
step (R14, R55). -/
def Obligations.StepRunsSelected : Prop :=
  ∀ s : State,
    (∀ i, s.select = .op i → i.wf = true ∧ ∃ t, exec i s = .next t ∧ step s = .next t.advanceInputs) ∧
    (∀ r, s.select = .refuse r → step s = .refused r) ∧
    (s.pending = [] → s.advanceInputs = s) ∧
    (∀ d ds, s.pending = d :: ds → s.advanceInputs = { s.drive d with pending := ds })

/-- A word put where the next step takes its control word from is the operation the next step selects. Placing a word
(`State.place`: which ports, phase and mark it sets) is the model's own (log entry 7, DESIGN CHOICE); what the placed
word then selects is R52 to R55. -/
def Obligations.PlacedWordIsSelected : Prop :=
  ∀ (s : State) (w : CtlWord) (i : Instr), decode w = .op i → (s.place w).select = .op i

/-- The step decode of the core (R55), each row with the step it performs. Two things in it are the model's own: after
the step the host's next port levels arrive (`advanceInputs`, log entry 4), and RESET sets the mark `wasReset`, which
the other rows ask for (log entry 3). -/
def Obligations.StepDecodeTable : Prop :=
  ∀ s : State, s.unit = .core →
    (s.corePorts.rst = true → step s = .next (s.setCore s.core.toIdle).advanceInputs) ∧
    (s.corePorts.rst = false → s.core.wasReset = true →
      (s.core.phase = .run → step s = .next (s.setCore s.core.round).advanceInputs) ∧
      (s.core.phase = .idle ∨ s.core.phase = .done →
        (s.corePorts.cmd.getLsbD 1 = false → step s = .next s.advanceInputs) ∧
        (s.corePorts.cmd = 0b10 →
          step s = .next (s.setCore (s.core.load .encrypt s.corePorts.keyIn s.corePorts.dataIn)).advanceInputs) ∧
        (s.corePorts.cmd = 0b11 →
          step s = .next (s.setCore (s.core.load .decrypt s.corePorts.keyIn s.corePorts.dataIn)).advanceInputs)) ∧
      (s.core.phase = .reserved → step s = .refused .reservedPhase))

/-- The stand-alone units select by their own ports, whatever the core's state (R53, R54). -/
def Obligations.StandaloneSelection : Prop :=
  ∀ s : State,
    (s.unit = .ksu → s.select = .op
      (if s.ksPorts.load then .ksLoad s.ksPorts.step s.ksPorts.dir s.ksPorts.rnd
       else if s.ksPorts.step then .ksStep s.ksPorts.dir s.ksPorts.rnd
       else .ksHold s.ksPorts.dir s.ksPorts.rnd)) ∧
    (s.unit = .rpu → s.select = .op (if s.rpPorts.last then .rpLast else .rpRound))

/-! ### The core's operations -/

/-- R105: NOP completes in IDLE and DONE and writes no register. -/
def Obligations.NopHolds : Prop :=
  ∀ (s : State) (m : Bool), s.Ready →
    ∃ t, exec (.nop m) s = .next t ∧ t = s ∧ t.done = s.done ∧ t.busy = false

/-- R102, R103: ENC and DEC complete as LOAD steps in IDLE and DONE, with every register LOAD writes given bit by bit
from the ports, and have no effect in RUN. -/
def Obligations.EncDecLoad : Prop :=
  ∀ (m : Mode) (s : State),
    (s.Ready → ∃ t, exec (match m with | .encrypt => .enc | .decrypt => .dec) s = .next t ∧
      t = s.setCore t.core ∧
      (∀ i, 1 ≤ i → i ≤ 32 →
        bit t.core.l i = bit s.corePorts.dataIn (tableIP.getD (i - 1) 0) ∧
        bit t.core.r i = bit s.corePorts.dataIn (tableIP.getD (i + 31) 0)) ∧
      (∀ i, 1 ≤ i → i ≤ 28 →
        bit t.core.c i = bit s.corePorts.keyIn (tablePC1.getD (i - 1) 0) ∧
        bit t.core.d i = bit s.corePorts.keyIn (tablePC1.getD (i + 27) 0)) ∧
      t.core.mode = m ∧ t.core.rnd = 0 ∧ t.core.phase = .run ∧
      t.core.out = s.core.out ∧ t.core.wasReset = true ∧ t.busy = true ∧ t.done = false) ∧
    (s.Running → exec (match m with | .encrypt => .enc | .decrypt => .dec) s = .next s)

/-- R101: the ROUND step of the core's own round index completes, with every register it writes. -/
def Obligations.RoundStep : Prop :=
  ∀ s : State, s.Running → ∃ t, exec (.round s.core.rnd) s = .next t ∧
    t = s.setCore t.core ∧
    t.core.c = hi28 (rotate s.core.cd s.core.rnd s.core.mode) ∧
    t.core.d = lo28 (rotate s.core.cd s.core.rnd s.core.mode) ∧
    t.core.mode = s.core.mode ∧ t.core.wasReset = true ∧
    (s.core.rnd.toNat < 15 →
      (t.core.l, t.core.r) =
        rpRound s.core.l s.core.r (compress (rotate s.core.cd s.core.rnd s.core.mode)) ∧
      t.core.rnd.toNat = s.core.rnd.toNat + 1 ∧ t.core.phase = .run ∧ t.core.out = s.core.out ∧
      t.busy = true ∧ t.done = false) ∧
    (s.core.rnd = 15 →
      (t.core.l, t.core.r) =
        rpLast s.core.l s.core.r (compress (rotate s.core.cd s.core.rnd s.core.mode)) ∧
      t.core.rnd = 0 ∧ t.core.phase = .done ∧ t.core.out = finalPermute (joinHalves t.core.l t.core.r) ∧
      t.busy = false ∧ t.done = true) ∧
    (s.core.mode = .decrypt → s.core.rnd = 0 → t.core.c = s.core.c ∧ t.core.d = s.core.d)

/-- R106: while busy no command has an effect, the ROUND step is performed instead, and neither `cmd` nor `key_in` nor
`data_in` is read. -/
def Obligations.CommandsDroppedWhileBusy : Prop :=
  ∀ s : State, s.Running →
    (∀ m, exec (.nop m) s = .next s) ∧ exec .enc s = .next s ∧ exec .dec s = .next s ∧
    (∀ p : CorePorts, p.rst = false →
      ∃ t, step (s.drive (.core p)) = .next t ∧ t.core = s.core.round)

/-- R131: a core step with `rst = 1` is RESET whatever else the ports and registers hold; RESET completes in every
state, writes `PHASE` and no other register of the spec, and repeating it changes nothing further. -/
def Obligations.ResetWritesPhaseOnly : Prop :=
  ∀ s : State,
    (s.ResetsNext → s.select = .op (.reset s.corePorts.cmd)) ∧
    ∀ c : BitVec 2, ∃ t, exec (.reset c) s = .next t ∧ t = s.setCore t.core ∧
      t.core.phase = .idle ∧ t.busy = false ∧ t.done = false ∧
      t.core.c = s.core.c ∧ t.core.d = s.core.d ∧ t.core.l = s.core.l ∧ t.core.r = s.core.r ∧
      t.core.rnd = s.core.rnd ∧ t.core.mode = s.core.mode ∧ t.core.out = s.core.out ∧ t.dataOut = s.dataOut ∧
      ∀ c', exec (.reset c') t = .next t

/-- Where the core's operations stop: before the first reset (R132), in the reserved phase (R57), and ROUND where its
SEQ word is not the core's own (R52). That the first two are refused is the spec's treatment (U3, U4); the third
refusal, `seqMismatch`, is the model's, and so are the mark `wasReset` and the names (log entry 3). -/
def Obligations.RefusedStates : Prop :=
  ∀ s : State,
    (s.core.wasReset = false →
      (∀ m, exec (.nop m) s = .refused .beforeFirstReset) ∧ exec .enc s = .refused .beforeFirstReset ∧
      exec .dec s = .refused .beforeFirstReset ∧ (∀ r, exec (.round r) s = .refused .beforeFirstReset) ∧
      (s.unit = .core → s.corePorts.rst = false → step s = .refused .beforeFirstReset)) ∧
    (s.core.wasReset = true → s.core.phase = .reserved →
      (∀ m, exec (.nop m) s = .refused .reservedPhase) ∧ exec .enc s = .refused .reservedPhase ∧
      exec .dec s = .refused .reservedPhase ∧ (∀ r, exec (.round r) s = .refused .reservedPhase) ∧
      (s.unit = .core → s.corePorts.rst = false → step s = .refused .reservedPhase)) ∧
    (s.Safe → ∀ r, ¬ (s.core.phase = .run ∧ s.core.rnd = r) → exec (.round r) s = .refused .seqMismatch)

/-! ### The stand-alone units -/

/-- R75: KS_LOAD completes in every state, loads PC-1 of `ks_key` bit by bit whatever `ks_step`, `ks_dir` and `ks_rnd`
are, writes no other register, and its outputs are those of the old register, for `ks_dir` and `ks_rnd`. -/
def Obligations.KsLoad : Prop :=
  ∀ (s : State) (st : Bool) (dir : Mode) (r : RoundIndex), ∃ t, exec (.ksLoad st dir r) s = .next t ∧
    t = (s.setKsu t.ksu).seeKs t.ksSeen ∧
    (∀ i, 1 ≤ i → i ≤ 28 →
      bit t.ksu.c i = bit s.ksPorts.key (tablePC1.getD (i - 1) 0) ∧
      bit t.ksu.d i = bit s.ksPorts.key (tablePC1.getD (i + 27) 0)) ∧
    (s.ksu.outs dir r).cdNext = rotate s.ksu.cd r dir ∧
    (s.ksu.outs dir r).subkey = compress (rotate s.ksu.cd r dir)

/-- R76: KS_STEP completes in every state and rotates each half on its own by the amounts of R65 and R66, bit by bit;
the subkey output of the step is that of the rotated key; with `ks_dir = 1` and `ks_rnd = 0` nothing moves. -/
def Obligations.KsStep : Prop :=
  ∀ (s : State) (r : RoundIndex),
    (∃ t, exec (.ksStep .encrypt r) s = .next t ∧ t = (s.setKsu t.ksu).seeKs t.ksSeen ∧
      (∀ i, 1 ≤ i → i ≤ 28 →
        bit t.ksu.c i = bit s.ksu.c ((i - 1 + shiftTable.getD r.toNat 0) % 28 + 1) ∧
        bit t.ksu.d i = bit s.ksu.d ((i - 1 + shiftTable.getD r.toNat 0) % 28 + 1)) ∧
      t.ksu.cd = rotate s.ksu.cd r .encrypt ∧ (s.ksu.outs .encrypt r).subkey = compress t.ksu.cd) ∧
    (∃ t, exec (.ksStep .decrypt r) s = .next t ∧ t = (s.setKsu t.ksu).seeKs t.ksSeen ∧
      (r ≠ 0 → ∀ i, 1 ≤ i → i ≤ 28 →
        bit t.ksu.c i = bit s.ksu.c ((i - 1 + 28 - shiftTable.getD r.toNat 0) % 28 + 1) ∧
        bit t.ksu.d i = bit s.ksu.d ((i - 1 + 28 - shiftTable.getD r.toNat 0) % 28 + 1)) ∧
      (r = 0 → t.ksu = s.ksu) ∧
      t.ksu.cd = rotate s.ksu.cd r .decrypt ∧ (s.ksu.outs .decrypt r).subkey = compress t.ksu.cd)

/-- R74: KS_HOLD completes in every state and writes no register; the outputs for its direction and index. -/
def Obligations.KsHold : Prop :=
  ∀ (s : State) (dir : Mode) (r : RoundIndex), ∃ t, exec (.ksHold dir r) s = .next t ∧
    t = s.seeKs t.ksSeen ∧ t.ksu = s.ksu ∧
    (s.ksu.outs dir r).cdNext = rotate (joinKey s.ksu.c s.ksu.d) r dir ∧
    (s.ksu.outs dir r).subkey = compress (rotate (joinKey s.ksu.c s.ksu.d) r dir)

/-- R90, R91: RP_ROUND and RP_LAST as functions of two halves and a subkey; and as operations they complete in every
state, change nothing but the model's sample of the outputs (log entry 6), and the outputs are the function's values on
the ports. -/
def Obligations.RoundProcessorOps : Prop :=
  (∀ (l r : Half) (k : Subkey),
    rpRound l r k = (r, l ^^^ roundF r k) ∧ rpLast l r k = (l ^^^ roundF r k, r)) ∧
  (∀ s : State,
    (∃ t, exec .rpRound s = .next t ∧ t = s.seeRp t.rpSeen ∧
      (t.rpSeen.lNext, t.rpSeen.rNext) = rpRound s.rpPorts.l s.rpPorts.r s.rpPorts.k ∧
      t.rpSeen.f = roundF s.rpPorts.r s.rpPorts.k) ∧
    (∃ t, exec .rpLast s = .next t ∧ t = s.seeRp t.rpSeen ∧
      (t.rpSeen.lNext, t.rpSeen.rNext) = rpLast s.rpPorts.l s.rpPorts.r s.rpPorts.k ∧
      t.rpSeen.f = roundF s.rpPorts.r s.rpPorts.k))

/-- In a step of a stand-alone unit the host sees the unit's combinational outputs for the port levels and the register
of the step's start (R28, R30; the sampling is the model's own, log entry 6). -/
def Obligations.StandaloneOutputs : Prop :=
  ∀ s : State,
    (s.unit = .ksu → ∃ t, step s = .next t ∧ t.ksSeen = s.ksOuts ∧ t.rpSeen = s.rpSeen ∧
      s.ksOuts.cdNext = rotate (joinKey s.ksu.c s.ksu.d) s.ksPorts.rnd s.ksPorts.dir ∧
      s.ksOuts.subkey = compress s.ksOuts.cdNext) ∧
    (s.unit = .rpu → ∃ t, step s = .next t ∧ t.rpSeen = s.rpOuts ∧ t.ksSeen = s.ksSeen ∧
      s.rpOuts.f = roundF s.rpPorts.r s.rpPorts.k ∧
      (s.rpOuts.lNext, s.rpOuts.rNext) =
        if s.rpPorts.last then (s.rpPorts.l ^^^ s.rpOuts.f, s.rpPorts.r)
        else (s.rpPorts.r, s.rpPorts.l ^^^ s.rpOuts.f))

/-! ### Frames and writers -/

/-- The frame of every operation: what it leaves unchanged when it gives a next state. The core's operations touch the
core's registers only, the stand-alone units' operations their own registers and samples only; no operation touches a
port level or the pending drives. There is no memory and no flag with storage (R27, R36). -/
def Obligations.OperationFrames : Prop :=
  ∀ (i : Instr) (s t : State), exec i s = .next t →
    match i with
    | .nop _ => t = s
    | .enc => t = s.setCore t.core ∧ t.core.out = s.core.out ∧ t.core.wasReset = s.core.wasReset
    | .dec => t = s.setCore t.core ∧ t.core.out = s.core.out ∧ t.core.wasReset = s.core.wasReset
    | .round r => t = s.setCore t.core ∧ t.core.mode = s.core.mode ∧ t.core.wasReset = s.core.wasReset ∧
        (r ≠ 15 → t.core.out = s.core.out ∧ t.core.phase = s.core.phase)
    | .reset _ => t = s.setCore t.core ∧ t.core.c = s.core.c ∧ t.core.d = s.core.d ∧ t.core.l = s.core.l ∧
        t.core.r = s.core.r ∧ t.core.rnd = s.core.rnd ∧ t.core.mode = s.core.mode ∧ t.core.out = s.core.out
    | .ksHold _ _ => t = s.seeKs t.ksSeen
    | .ksStep _ _ => t = (s.setKsu t.ksu).seeKs t.ksSeen
    | .ksLoad _ _ _ => t = (s.setKsu t.ksu).seeKs t.ksSeen
    | .rpRound => t = s.seeRp t.rpSeen
    | .rpLast => t = s.seeRp t.rpSeen

/-- R23: `OUT` changes in no step but the last ROUND step, which writes `FP(L' ‖ R')` into it. -/
def Obligations.OutWriter : Prop :=
  ∀ s t : State, step s = .next t →
    (¬ (s.RoundsNext ∧ s.core.rnd = 15) → t.core.out = s.core.out) ∧
    (s.RoundsNext → s.core.rnd = 15 → t.core.out = finalPermute (joinHalves t.core.l t.core.r))

/-- R21: `PHASE` changes only by reset (to IDLE), by LOAD (to RUN) and by the last ROUND step (to DONE); no step writes
`11`. -/
def Obligations.PhaseWriters : Prop :=
  ∀ s t : State, step s = .next t →
    (s.ResetsNext → t.core.phase = .idle) ∧ (s.LoadsNext → t.core.phase = .run) ∧
    (s.RoundsNext → s.core.rnd = 15 → t.core.phase = .done) ∧
    (¬ s.ResetsNext → ¬ s.LoadsNext → ¬ (s.RoundsNext ∧ s.core.rnd = 15) → t.core.phase = s.core.phase)

/-- R22: `MODE` is copied from `cmd[0]` by the LOAD step and changes in no other step; a ROUND step reads it to choose
the rotation, and its round step uses the halves, the subkey and the last-round bit only. -/
def Obligations.ModeWriter : Prop :=
  ∀ s t : State, step s = .next t →
    (s.LoadsNext → t.core.mode = if s.corePorts.cmd.getLsbD 0 then .decrypt else .encrypt) ∧
    (¬ s.LoadsNext → t.core.mode = s.core.mode) ∧
    (s.RoundsNext → t.core.cd = rotate s.core.cd s.core.rnd s.core.mode ∧
      (t.core.l, t.core.r) = roundStep s.core.l s.core.r (compress t.core.cd) (decide (s.core.rnd = 15)))

/-- R20: the round counter is the index of the round the next ROUND step performs; it is set to 0 by LOAD, advanced by a
ROUND step below 15, set to 0 by the ROUND step of 15, and changes in no other step. -/
def Obligations.RoundCounter : Prop :=
  ∀ s t : State, step s = .next t →
    (s.RoundsNext → s.select = .op (.round s.core.rnd)) ∧
    (s.LoadsNext → t.core.rnd = 0) ∧
    (s.RoundsNext → s.core.rnd.toNat < 15 → t.core.rnd.toNat = s.core.rnd.toNat + 1) ∧
    (s.RoundsNext → s.core.rnd = 15 → t.core.rnd = 0) ∧
    (¬ s.LoadsNext → ¬ s.RoundsNext → t.core.rnd = s.core.rnd)

/-- The key and data registers change in LOAD and ROUND steps only, and the stand-alone key register in steps of its
own unit only (R18, R19, R29). -/
def Obligations.KeyAndDataWriters : Prop :=
  ∀ s t : State, step s = .next t →
    (¬ s.LoadsNext → ¬ s.RoundsNext →
      t.core.c = s.core.c ∧ t.core.d = s.core.d ∧ t.core.l = s.core.l ∧ t.core.r = s.core.r) ∧
    (s.unit ≠ .ksu → t.ksu = s.ksu) ∧ (s.unit ≠ .core → t.core = s.core)

/-- R25: `done` is `PHASE = DONE`; it rises at the end of the last ROUND step, stays while the core waits, and falls at
the end of the next LOAD step or reset. -/
def Obligations.DoneOutput : Prop :=
  (∀ s : State, s.done = true ↔ s.core.phase = .done) ∧
  ∀ s t : State, step s = .next t →
    (s.RoundsNext → s.core.rnd = 15 → t.done = true) ∧
    (s.done = true → ¬ s.LoadsNext → ¬ s.ResetsNext → t.done = true) ∧
    (s.LoadsNext → t.done = false) ∧ (s.ResetsNext → t.done = false) ∧
    (s.done = false → ¬ (s.RoundsNext ∧ s.core.rnd = 15) → t.done = false)

/-- The result is stable from the step where `done` becomes 1 until the next LOAD step or reset (R25, R45). -/
def Obligations.ResultStable : Prop :=
  ∀ s t : State, step s = .next t → s.done = true → ¬ s.LoadsNext → ¬ s.ResetsNext →
    t.done = true ∧ t.dataOut = s.dataOut

/-- The ports `key_in`, `data_in` and `cmd[0]` are read by the LOAD step and by no other: two drives with the same `rst`
that start no block leave the core in the same registers (R41, R129, R140). -/
def Obligations.InputsSampledByLoadOnly : Prop :=
  ∀ (s t t' : State) (p p' : CorePorts), p.rst = p'.rst →
    ¬ (s.drive (.core p)).LoadsNext → ¬ (s.drive (.core p')).LoadsNext →
    step (s.drive (.core p)) = .next t → step (s.drive (.core p')) = .next t' → t.core = t'.core

/-! ### Invariants and whole-machine rules -/

/-- Reset: `PHASE` is IDLE, so `busy` and `done` are 0 (R33), and the reset state is safe and meets the phase
invariant. -/
def Obligations.ResetState : Prop :=
  State.reset.core.phase = .idle ∧ State.reset.busy = false ∧ State.reset.done = false ∧
  State.reset.Safe ∧ State.reset.PhaseInv

/-- The phase invariant of R35 (the spec's own inference; `wasReset` is the model's mark, log entry 3) is kept by every
step. -/
def Obligations.PhaseInvKept : Prop :=
  ∀ s t : State, s.PhaseInv → step s = .next t → t.PhaseInv

/-- Every step from a safe state completes in a safe state: no input value, no command and no operation of any unit
stops the machine (R115, R128). -/
def Obligations.SafeStepsComplete : Prop :=
  ∀ s : State, s.Safe → ∃ t, step s = .next t ∧ t.Safe

/-- R35, R104: the LOAD step establishes the block invariant for the block, key and mode it samples. -/
def Obligations.LoadStartsBlock : Prop :=
  ∀ s : State, s.LoadsNext → ∃ t, step s = .next t ∧ t.core.phase = .run ∧
    BlockInv s.corePorts.dataIn s.corePorts.keyIn (if s.corePorts.cmd.getLsbD 0 then .decrypt else .encrypt) t

/-- R35, R104: every step but the next LOAD keeps the block invariant, so that in DONE `OUT` is `processBlock` of what
the last LOAD step sampled. -/
def Obligations.BlockInvKept : Prop :=
  ∀ (block key : Block) (m : Mode) (s t : State),
    BlockInv block key m s → step s = .next t → ¬ s.LoadsNext → BlockInv block key m t

/-- R104, R141 (the spec's own inference): after the LOAD step and 16 further steps out of reset the core is DONE with
`processBlock` in its output; in between it is busy and `RND` counts, whatever the host drives. The pending drives are
the model's own (log entry 4). -/
def Obligations.SixteenRoundsComputeProcessBlock : Prop :=
  ∀ s : State, s.LoadsNext → (∀ d ∈ s.pending.take 16, d.NoReset) →
    (∀ n, n < 16 → ∃ t : State, Sys2Proof.core.run (n + 1) s = .next t ∧
      t.core.phase = .run ∧ t.core.rnd.toNat = n ∧ t.busy = true ∧ t.done = false ∧ t.dataOut = s.dataOut) ∧
    (∃ t : State, Sys2Proof.core.run 17 s = .next t ∧
      t.core.phase = .done ∧ t.core.rnd = 0 ∧ t.busy = false ∧ t.done = true ∧
      t.dataOut = processBlock s.corePorts.dataIn s.corePorts.keyIn
        (if s.corePorts.cmd.getLsbD 0 then .decrypt else .encrypt))

/-- R133 (the spec's own inference): no step reads an unspecified register. Two states that agree on everything the
rules specify step to states that agree again, and show the same `busy`, `done` and, while `done = 1`, the same
`data_out`. So no value the model names for a register at reset (log entry 1) reaches `busy` or `done`, nor `data_out`
while `done = 1`. Between reset and the first completed block `data_out` shows `OUT`, whose value the rules leave open
(R26): of it this says nothing. -/
def Obligations.UnspecifiedNeverRead : Prop :=
  ∀ s s' : State, s.SameSpecified s' →
    (∀ t, step s = .next t → ∃ t', step s' = .next t' ∧ t.SameSpecified t' ∧
      t.busy = t'.busy ∧ t.done = t'.done ∧ (t.done = true → t.dataOut = t'.dataOut)) ∧
    (∀ r, step s = .refused r → step s' = .refused r)

/-! ### The functions -/

/-- R11: the permutation primitive, bit by bit, for any table with entries in range. -/
def Obligations.PermuteBits : Prop :=
  ∀ (w m : Nat) (T : List Nat) (v : BitVec w), T.length = m → (∀ p ∈ T, 1 ≤ p ∧ p ≤ w) →
    ∀ j, 1 ≤ j → j ≤ m → bit (permute m T v) j = bit v (T.getD (j - 1) 0)

/-- R12: the rotation primitives, bit by bit, and the shift form of the left rotation. -/
def Obligations.RotationBits : Prop :=
  ∀ (x : KeyHalf) (n : Nat), n ≤ 27 →
    (∀ i, 1 ≤ i → i ≤ 28 →
      bit (rotl28 x n) i = bit x ((i - 1 + n) % 28 + 1) ∧
      bit (rotr28 x n) i = bit x ((i - 1 + 28 - n) % 28 + 1)) ∧
    (1 ≤ n → rotl28 x n = x <<< n ||| x >>> (28 - n)) ∧ rotl28 x 0 = x ∧ rotr28 x 0 = x

/-- R85 to R87: nibble `g` of the substitution is the entry of S-box `g` at the row of the group's outer bits and the
column of its inner bits. -/
def Obligations.SubstitutionNibbles : Prop :=
  ∀ (e k : Subkey) (g : Nat), 1 ≤ g → g ≤ 8 →
    (mixAndSubstitute e k).extractLsb' (32 - 4 * g) 4 =
      BitVec.ofNat 4
        (((([sbox1, sbox2, sbox3, sbox4, sbox5, sbox6, sbox7, sbox8].getD (g - 1) []).getD
          (2 * (bit (e ^^^ k) (6 * g - 5)).toNat + (bit (e ^^^ k) (6 * g)).toNat) []).getD
          (8 * (bit (e ^^^ k) (6 * g - 4)).toNat + 4 * (bit (e ^^^ k) (6 * g - 3)).toNat +
            2 * (bit (e ^^^ k) (6 * g - 2)).toNat + (bit (e ^^^ k) (6 * g - 1)).toNat) 0))

/-- The reverse rotation of a round undoes its forward rotation from round 1 on, and the first decryption step does not
rotate (R68, R137). -/
def Obligations.ReverseRotationUndoes : Prop :=
  ∀ (cd : RoundKey) (j : RoundIndex),
    (j ≠ 0 → rotateRev (rotateFwd cd j) j = cd) ∧ rotateRev cd 0 = cd

/-- The encryption sequence (R72; its totals are the spec's own inference): each round key is the forward rotation of
the one before, its halves are those of the permuted key rotated by the sum of the amounts, and after 16 rounds it is
the permuted key again. -/
def Obligations.EncryptionSequence : Prop :=
  ∀ (key : Block) (j : Nat), j < 16 →
    scheduleKey (derivePermutedKey key) .encrypt (j + 1) =
      rotateFwd (scheduleKey (derivePermutedKey key) .encrypt j) (BitVec.ofNat 4 j) ∧
    subkey key .encrypt j = compress (scheduleKey (derivePermutedKey key) .encrypt (j + 1)) ∧
    hi28 (scheduleKey (derivePermutedKey key) .encrypt (j + 1)) =
      rotl28 (hi28 (derivePermutedKey key)) ((shiftTable.take (j + 1)).sum % 28) ∧
    lo28 (scheduleKey (derivePermutedKey key) .encrypt (j + 1)) =
      rotl28 (lo28 (derivePermutedKey key)) ((shiftTable.take (j + 1)).sum % 28) ∧
    scheduleKey (derivePermutedKey key) .encrypt 16 = derivePermutedKey key

/-- The decryption sequence (R73; the spec's own inference) is the encryption sequence reversed, and ends one round
short of the permuted key. -/
def Obligations.DecryptionSequence : Prop :=
  ∀ (key : Block) (j : Nat), j < 16 →
    scheduleKey (derivePermutedKey key) .decrypt (j + 1) =
      rotateRev (scheduleKey (derivePermutedKey key) .decrypt j) (BitVec.ofNat 4 j) ∧
    scheduleKey (derivePermutedKey key) .decrypt (j + 1) =
      scheduleKey (derivePermutedKey key) .encrypt (16 - j) ∧
    subkey key .decrypt j = subkey key .encrypt (15 - j) ∧
    scheduleKey (derivePermutedKey key) .decrypt 16 = scheduleKey (derivePermutedKey key) .encrypt 1

/-- Parity independence (R78; the spec's own inference): keys that differ only in parity bits give the same subkeys in
both directions, and the same results. -/
def Obligations.ParityIndependence : Prop :=
  ∀ k k' : Block, (∀ i, 1 ≤ i → i ≤ 64 → i % 8 ≠ 0 → bit k i = bit k' i) →
    (∀ dir j, subkey k dir j = subkey k' dir j) ∧ (∀ b m, processBlock b k m = processBlock b k' m)

/-- Constant schedules (R79; the spec's own inference): where each half of the permuted key is all zeros or all ones,
all subkeys of both directions are equal, decrypting equals encrypting, and encrypting twice returns the input; the four
named keys are such keys. -/
def Obligations.ConstantSchedules : Prop :=
  (∀ key : Block, ConstantHalf (hi28 (derivePermutedKey key)) → ConstantHalf (lo28 (derivePermutedKey key)) →
    (∀ dir j, subkey key dir j = compress (derivePermutedKey key)) ∧
    (∀ b, processBlock b key .decrypt = processBlock b key .encrypt) ∧
    (∀ b, processBlock (processBlock b key .encrypt) key .encrypt = b)) ∧
  (∀ key ∈ ([0x0101010101010101, 0xFEFEFEFEFEFEFEFE, 0x1F1F1F1F0E0E0E0E, 0xE0E0E0E0F1F1F1F1] : List Block),
    ConstantHalf (hi28 (derivePermutedKey key)) ∧ ConstantHalf (lo28 (derivePermutedKey key)))

/-- Decryption symmetry (R93; the spec's own inference): RP_ROUND is RP_LAST with the halves swapped, RP_LAST is its own
inverse, and a pass of sixteen rounds is undone by the pass with the subkeys reversed. -/
def Obligations.FeistelSymmetry : Prop :=
  (∀ (l r : Half) (k : Subkey),
    rpRound l r k = (rpLast l r k).swap ∧ rpLast (rpLast l r k).1 (rpLast l r k).2 k = (l, r)) ∧
  (∀ (ks : List Subkey) (x : Half × Half), ks.length = 16 → feistelPass ks.reverse (feistelPass ks x) = x)

/-- The final permutation (R97; the spec infers it for its own tables) is the inverse of the initial permutation, on
values and on table positions. -/
def Obligations.FinalInvertsInitial : Prop :=
  (∀ v : Block, finalPermute (initialPermute v) = v ∧ initialPermute (finalPermute v) = v) ∧
  (∀ j, 1 ≤ j → j ≤ 64 → tableFP.getD (tableIP.getD (j - 1) 0 - 1) 0 = j)

/-- Round trip (R109; the spec's own inference): decryption undoes encryption and the other way round, for blocks and
for buffers; a buffer comes back with its filler. -/
def Obligations.RoundTrip : Prop :=
  ∀ m m' : Mode, m ≠ m' →
    (∀ block key : Block, processBlock (processBlock block key m) key m' = block) ∧
    (∀ (buf key out : List Byte), processBuffer buf key m = .bytes out →
      processBuffer out key m' = .bytes (pad buf)) ∧
    (∀ buf : List Byte, buf.length % 8 = 0 → pad buf = buf)

/-- The known-answer vector: the encryption is R114's, the decryption is V3's instance of the round trip (R109, the
spec's own inference). -/
def Obligations.KnownAnswer : Prop :=
  processBlock 0x0123456789ABCDEF 0x133457799BBCDFF1 .encrypt = 0x85E813540F0AB405 ∧
  processBlock 0x85E813540F0AB405 0x133457799BBCDFF1 .decrypt = 0x0123456789ABCDEF

/-- Complementing block and key complements the result (95_test_vectors.md V23; it follows from the rules and is no rule
of the source). -/
def Obligations.Complementation : Prop :=
  ∀ (block key : Block) (m : Mode), processBlock (~~~block) (~~~key) m = ~~~(processBlock block key m)

/-! ### Several instances and the host's side -/

/-- R48: instances share no state: each steps on its own, and what another instance holds makes no difference. -/
def Obligations.InstancesIndependent : Prop :=
  ∀ (cfg : Config.Instances) (cores cores' : Vector State cfg.nCores) (i : Nat) (hi : i < cfg.nCores),
    (stepInstances cfg cores)[i] = step cores[i] ∧
    (cores[i] = cores'[i] → (stepInstances cfg cores)[i] = (stepInstances cfg cores')[i])

/-- R37: byte `b` of a block is its bits `8b+1` to `8b+8`, first byte most significant, and bytes and blocks are
converted without loss. -/
def Obligations.ByteOrder : Prop :=
  (∀ bs : List Byte, bs.length = 8 →
    (∀ b i, b < 8 → 1 ≤ i → i ≤ 8 → bit (blockOfBytes bs) (8 * b + i) = bit (bs.getD b 0) i) ∧
    bytesOfBlock (blockOfBytes bs) = bs) ∧
  (∀ v : Block, (bytesOfBlock v).length = 8 ∧ blockOfBytes (bytesOfBlock v) = v) ∧
  blockOfBytes [0x01, 0x23, 0x45, 0x67, 0x89, 0xAB, 0xCD, 0xEF] = 0x0123456789ABCDEF

/-- R119 (and R116): a call with a wrong-length key reports the key, whatever the block; with a right key a wrong-length
block is reported; a buffer's length is never wrong. -/
def Obligations.WrongLengthsReported : Prop :=
  ∀ (block key : List Byte) (m : Mode),
    (key.length ≠ 8 → processBlockBytes block key m = .invalidInputLength .key ∧
      processBuffer block key m = .invalidInputLength .key) ∧
    (key.length = 8 → block.length ≠ 8 → processBlockBytes block key m = .invalidInputLength .block) ∧
    (key.length = 8 → block.length = 8 → ∃ out, processBlockBytes block key m = .bytes out) ∧
    (key.length = 8 → ∃ out, processBuffer block key m = .bytes out)

/-- R107: padding: nothing on a whole number of blocks, else `8 - (N mod 8)` bytes of `0x30` behind the buffer; the
length is `8 · ceil(N / 8)`. -/
def Obligations.PaddingRule : Prop :=
  ∀ buf : List Byte,
    (buf.length % 8 = 0 → pad buf = buf) ∧
    (buf.length % 8 ≠ 0 → pad buf = buf ++ List.replicate (8 - buf.length % 8) 0x30) ∧
    (pad buf).length = 8 * ((buf.length + 7) / 8)

/-- R108: `processBuffer` reports a key that is not eight bytes; else it pads, and each output block is `processBlock`
of the input block at the same place, whatever stands elsewhere; an aligned buffer keeps its length. -/
def Obligations.BufferBlocksIndependent : Prop :=
  ∀ (buf key : List Byte) (m : Mode),
    (key.length ≠ 8 → processBuffer buf key m = .invalidInputLength .key) ∧
    (key.length = 8 → ∃ out, processBuffer buf key m = .bytes out ∧
      pad buf = buf ++ List.replicate ((8 - buf.length % 8) % 8) 0x30 ∧
      out.length = (pad buf).length ∧ (buf.length % 8 = 0 → out.length = buf.length) ∧
      ∀ n, 8 * n < out.length →
        (out.drop (8 * n)).take 8 =
          bytesOfBlock (processBlock (blockOfBytes (((pad buf).drop (8 * n)).take 8)) (blockOfBytes key) m))

/-- The script lines of ENCB and DECB (R61), from any device that is ready, leave `processBlock` of their operands in
the host variable (R104), after one ENC or DEC step and sixteen NOP steps. The interpreter of scripts is the model's own
(log entry 8). -/
def Obligations.BlockScriptComputes : Prop :=
  ∀ (script : List HostLine) (h : HostState) (x : Nat) (k d : HostValue) (kv dv : Block) (m : Mode),
    script[h.line]? = some (match m with | .encrypt => .enc k d | .decrypt => .dec k d) →
    script[h.line + 1]? = some .wait → script[h.line + 2]? = some (.rd x) →
    h.value k = some kv → h.value d = some dv → h.device.Ready →
    ∃ h', hostRun script 19 h = .next h' ∧ h'.line = h.line + 3 ∧
      h'.vars = (x, processBlock dv kv m) :: h.vars ∧ h'.device.done = true ∧
      h'.offsets = h.offsets ∧ h'.inBuf = h.inBuf ∧ h'.outBuf = h.outBuf

/-- What each script line does, whenever it has a result (R60, R61). The host-only lines and a WAIT that finds `done =
1` take no device step: RD and LDB set one host variable, STB writes eight bytes of the output buffer, ADD adds to one
offset, BLT goes to the first line of its label or to the next line, and nothing else of the host changes. A WAIT that
finds `done = 0` takes one NOP step and stays; RST, NOP, ENC and DEC take one step with their row's port levels. The
interpreter is the model's own (log entry 8; the first of several lines of a label too), and so is keeping the levels of
`key_in` and `data_in` where R60 says any (log entry 4). -/
def Obligations.HostLinesTakeNoStep : Prop :=
  ∀ (script : List HostLine) (h h' : HostState) (l : HostLine), script[h.line]? = some l →
    hostStep script h = .next h' →
    match l with
    | .rd x => h' = { h with vars := h'.vars, line := h.line + 1 } ∧
        h'.value (.var x) = some h.device.dataOut ∧ ∀ y, y ≠ x → h'.value (.var y) = h.value (.var y)
    | .ldb d a => ∃ addr v, lookupVar h.offsets a = some addr ∧ memRead8 h.inBuf addr = some v ∧
        h' = { h with vars := h'.vars, line := h.line + 1 } ∧
        h'.value (.var d) = some v ∧ ∀ y, y ≠ d → h'.value (.var y) = h.value (.var y)
    | .stb a x => ∃ addr v, lookupVar h.offsets a = some addr ∧ h.value (.var x) = some v ∧
        memWrite8 h.outBuf addr v = some h'.outBuf ∧ h' = { h with outBuf := h'.outBuf, line := h.line + 1 }
    | .add a n => ∃ addr, lookupVar h.offsets a = some addr ∧
        h' = { h with offsets := h'.offsets, line := h.line + 1 } ∧
        lookupVar h'.offsets a = some (addr + n) ∧ ∀ b, b ≠ a → lookupVar h'.offsets b = lookupVar h.offsets b
    | .blt a n lbl => ∃ addr, lookupVar h.offsets a = some addr ∧ h' = { h with line := h'.line } ∧
        (addr < n → script[h'.line]? = some (.label lbl) ∧ ∀ i, i < h'.line → script[i]? ≠ some (.label lbl)) ∧
        (n ≤ addr → h'.line = h.line + 1)
    | .label _ => h' = { h with line := h.line + 1 }
    | .wait => h' = { h with device := h'.device, line := h'.line } ∧
        (h.device.done = true → h'.device = h.device ∧ h'.line = h.line + 1) ∧
        (h.device.done = false → h'.line = h.line ∧
          step (h.device.drive (.core { h.device.corePorts with rst := false, cmd := 0b00 })) = .next h'.device)
    | .rst => h' = { h with device := h'.device, line := h.line + 1 } ∧
        step (h.device.drive (.core { h.device.corePorts with rst := true, cmd := 0b00 })) = .next h'.device
    | .nop => h' = { h with device := h'.device, line := h.line + 1 } ∧
        step (h.device.drive (.core { h.device.corePorts with rst := false, cmd := 0b00 })) = .next h'.device
    | .enc k d => h' = { h with device := h'.device, line := h.line + 1 } ∧
        ∃ kv dv, h.value k = some kv ∧ h.value d = some dv ∧
          step (h.device.drive (.core ⟨false, 0b10, kv, dv⟩)) = .next h'.device
    | .dec k d => h' = { h with device := h'.device, line := h.line + 1 } ∧
        ∃ kv dv, h.value k = some kv ∧ h.value d = some dv ∧
          step (h.device.drive (.core ⟨false, 0b11, kv, dv⟩)) = .next h'.device

/-- Eight bytes of a host buffer (R15, R40). A write that fits has a result: a buffer of the same length, in which the
block is read back from its place and every eight bytes outside it read as before. A read that fits has the value of its
eight bytes. A write or a read that does not fit has no result (the model's choice, log entry 8). -/
def Obligations.HostBufferReadAfterWrite : Prop :=
  ∀ (buf : List Byte) (a : Nat),
    (a + 8 ≤ buf.length → memRead8 buf a = some (blockOfBytes ((buf.drop a).take 8)) ∧
      ∀ v : Block, ∃ buf', memWrite8 buf a v = some buf' ∧ buf'.length = buf.length ∧ memRead8 buf' a = some v ∧
        ∀ b, b + 8 ≤ a ∨ a + 8 ≤ b → memRead8 buf' b = memRead8 buf b) ∧
    (buf.length < a + 8 → memRead8 buf a = none ∧ ∀ v : Block, memWrite8 buf a v = none)

/-- Where each script line has a result (R60, R61): RD, a label and RST always; LDB and STB where the offset and the
variable have a value and the eight bytes are in the buffer; ADD where the offset has a value; BLT where moreover the
branch is not taken or the script has the label; NOP, ENC, DEC and WAIT on a safe device (a WAIT that finds `done = 1`
on any), ENC and DEC with operands that have values. What the result is, HostLinesTakeNoStep says. The interpreter is
the model's own (log entry 8), and so is what makes a device safe (log entry 3). -/
def Obligations.HostLinesComplete : Prop :=
  ∀ (script : List HostLine) (h : HostState) (l : HostLine), script[h.line]? = some l →
    (match l with
      | .rd _ => True
      | .ldb _ a => ∃ addr, lookupVar h.offsets a = some addr ∧ addr + 8 ≤ h.inBuf.length
      | .stb a x => ∃ addr v, lookupVar h.offsets a = some addr ∧ h.value (.var x) = some v ∧
          addr + 8 ≤ h.outBuf.length
      | .add a _ => ∃ addr, lookupVar h.offsets a = some addr
      | .blt a n lbl => ∃ addr, lookupVar h.offsets a = some addr ∧ (addr < n → .label lbl ∈ script)
      | .label _ => True
      | .wait => h.device.done = true ∨ h.device.Safe
      | .rst => True
      | .nop => h.device.Safe
      | .enc k d => h.device.Safe ∧ (∃ kv, h.value k = some kv) ∧ ∃ dv, h.value d = some dv
      | .dec k d => h.device.Safe ∧ (∃ kv, h.value k = some kv) ∧ ∃ dv, h.value d = some dv) →
    ∃ h', hostStep script h = .next h'
end

