-- ==== Sys2Proof/Laws/Bits.lean ====
section
/-! SUPPORT. The bit numbering, splitting and joining, and one unrolling lemma for each loop. -/

namespace Sys2Proof.Machine

/-- Two values with the same bits in DES numbering are equal. -/
theorem bit_ext {w : Nat} {x y : BitVec w} (h : ∀ i, 1 ≤ i → i ≤ w → bit x i = bit y i) : x = y := by
  apply BitVec.eq_of_getLsbD_eq
  intro i hi
  have := h (w - i) (by omega) (by omega)
  simpa [bit, show w - (w - i) = i by omega] using this

theorem bit_not {w : Nat} (v : BitVec w) {i : Nat} (h1 : 1 ≤ i) (h2 : i ≤ w) : bit (~~~v) i = !bit v i := by
  simp [bit]
  omega

theorem bit_xor {w : Nat} (x y : BitVec w) (i : Nat) : bit (x ^^^ y) i = (bit x i ^^ bit y i) := by
  simp [bit]

/-! ### Splitting and joining -/

theorem bit_hi28 (x : RoundKey) {i : Nat} (h : i ≤ 28) (h1 : 1 ≤ i) : bit (hi28 x) i = bit x i := by
  simp only [bit, hi28, BitVec.getLsbD_extractLsb', show 28 - i < 28 by omega, decide_true, Bool.true_and]
  congr 1
  omega

theorem bit_lo28 (x : RoundKey) {i : Nat} (h : i ≤ 28) (h1 : 1 ≤ i) : bit (lo28 x) i = bit x (i + 28) := by
  simp only [bit, lo28, BitVec.getLsbD_extractLsb', show 28 - i < 28 by omega, decide_true, Bool.true_and]
  congr 1
  omega

theorem bit_hi32 (x : Block) {i : Nat} (h : i ≤ 32) (h1 : 1 ≤ i) : bit (hi32 x) i = bit x i := by
  simp only [bit, hi32, BitVec.getLsbD_extractLsb', show 32 - i < 32 by omega, decide_true, Bool.true_and]
  congr 1
  omega

theorem bit_lo32 (x : Block) {i : Nat} (h : i ≤ 32) (h1 : 1 ≤ i) : bit (lo32 x) i = bit x (i + 32) := by
  simp only [bit, lo32, BitVec.getLsbD_extractLsb', show 32 - i < 32 by omega, decide_true, Bool.true_and]
  congr 1
  omega

@[simp] theorem hi28_joinKey (c d : KeyHalf) : hi28 (joinKey c d) = c := BitVec.extractLsb'_append_eq_left
@[simp] theorem lo28_joinKey (c d : KeyHalf) : lo28 (joinKey c d) = d := BitVec.extractLsb'_append_eq_right
@[simp] theorem hi32_joinHalves (l r : Half) : hi32 (joinHalves l r) = l := BitVec.extractLsb'_append_eq_left
@[simp] theorem lo32_joinHalves (l r : Half) : lo32 (joinHalves l r) = r := BitVec.extractLsb'_append_eq_right

@[simp] theorem joinKey_split (x : RoundKey) : joinKey (hi28 x) (lo28 x) = x := by
  apply BitVec.eq_of_getLsbD_eq
  intro i hi
  simp only [hi28, lo28, joinKey, BitVec.getLsbD_append, BitVec.getLsbD_extractLsb']
  split
  · simp_all
  · simp [show i - 28 < 28 by omega, show 28 + (i - 28) = i by omega]

@[simp] theorem joinHalves_split (x : Block) : joinHalves (hi32 x) (lo32 x) = x := by
  apply BitVec.eq_of_getLsbD_eq
  intro i hi
  simp only [hi32, lo32, joinHalves, BitVec.getLsbD_append, BitVec.getLsbD_extractLsb']
  split
  · simp_all
  · simp [show i - 32 < 32 by omega, show 32 + (i - 32) = i by omega]

/-! ### The shift amounts -/

theorem shift_le (j : RoundIndex) : shift j ≤ 2 := by revert j; decide

theorem dshift_le (j : RoundIndex) : dshift j ≤ 2 := by revert j; decide

theorem dshift_eq_shift {j : RoundIndex} (h : j ≠ 0) : dshift j = shift j := by revert h; revert j; decide

/-! ### The loops, one round at a time -/

theorem roundIndexes_take_succ {n : Nat} (h : n < 16) :
    roundIndexes.take (n + 1) = roundIndexes.take n ++ [BitVec.ofNat 4 n] := by
  revert h; revert n; decide

@[simp] theorem scheduleKey_zero (cd : RoundKey) (m : Mode) : scheduleKey cd m 0 = cd := rfl

@[simp] theorem loopAfter_zero (block key : Block) (m : Mode) : loopAfter block key m 0 = loopInit block key := rfl

/-- One more round of `processBlock`'s loop. -/
theorem loopAfter_succ (block key : Block) (m : Mode) {n : Nat} (h : n < 16) :
    loopAfter block key m (n + 1) = loopBody m (loopAfter block key m n) (BitVec.ofNat 4 n) := by
  simp [loopAfter, roundIndexes_take_succ h, List.foldl_append]

theorem processBlock_eq (block key : Block) (m : Mode) :
    processBlock block key m =
      finalPermute (joinHalves (loopAfter block key m 16).l (loopAfter block key m 16).r) := rfl

end Sys2Proof.Machine
end

