-- ==== Sys2Proof/Laws/Host.lean ====
section
/-! SUPPORT. What the shared operations of the host's side can do: looking a variable up, finding a label, driving the
device, and a command line. -/

namespace Sys2Proof.Machine

@[simp] theorem lookupVar_self {α : Type} (x : Nat) (v : α) (l : List (Nat × α)) :
    lookupVar ((x, v) :: l) x = some v := by simp [lookupVar]

theorem lookupVar_ne {α : Type} {x y : Nat} (h : y ≠ x) (v : α) (l : List (Nat × α)) :
    lookupVar ((x, v) :: l) y = lookupVar l y := by simp [lookupVar, h.symm]

@[simp] theorem HostState.value_var (h : HostState) (x : Nat) : h.value (.var x) = lookupVar h.vars x := rfl

/-- A label that is found stands where it is found, and nowhere before. -/
theorem findLabel_some {script : List HostLine} {lbl i j : Nat} (h : findLabel script lbl i = some j) :
    ∃ k, j = i + k ∧ script[k]? = some (.label lbl) ∧ ∀ m, m < k → script[m]? ≠ some (.label lbl) := by
  induction script generalizing i with
  | nil => cases h
  | cons l rest ih =>
    unfold findLabel at h
    split at h
    · rename_i hl
      cases h
      exact ⟨0, rfl, by simp [hl], fun m hm => by omega⟩
    · rename_i hl
      obtain ⟨k, rfl, hk, hm⟩ := ih h
      refine ⟨k + 1, by omega, by simpa using hk, fun m hlt => ?_⟩
      cases m with
      | zero => simpa using hl
      | succ m => simpa using hm m (by omega)

/-- A label the script has is found. -/
theorem findLabel_isSome {script : List HostLine} {lbl : Nat} (h : .label lbl ∈ script) (i : Nat) :
    ∃ j, findLabel script lbl i = some j := by
  induction script generalizing i with
  | nil => cases h
  | cons l rest ih =>
    unfold findLabel
    split
    · exact ⟨i, rfl⟩
    · rename_i hl
      rcases List.mem_cons.mp h with h | h
      · exact absurd h.symm hl
      · exact ih h (i + 1)

/-- Driving the device takes one step of it, moves to the next line, and touches nothing else of the host. -/
theorem HostState.drive_next {h h' : HostState} {p : CorePorts} {n : Nat} (hs : h.drive p n = .next h') :
    h' = { h with device := h'.device, line := n } ∧ step (h.device.drive (.core p)) = .next h'.device := by
  unfold HostState.drive at hs
  split at hs
  · rename_i t ht
    cases hs
    exact ⟨rfl, ht⟩
  · cases hs
  · cases hs

/-- An ENC or DEC line has operands with values and drives them. -/
theorem HostState.command_next {h h' : HostState} {cmd : BitVec 2} {k d : HostValue} (hs : h.command cmd k d = .next h') :
    h' = { h with device := h'.device, line := h.line + 1 } ∧ ∃ kv dv, h.value k = some kv ∧ h.value d = some dv ∧
      step (h.device.drive (.core ⟨false, cmd, kv, dv⟩)) = .next h'.device := by
  unfold HostState.command at hs
  split at hs
  · rename_i kv dv hk hd
    exact ⟨(HostState.drive_next hs).1, kv, dv, hk, hd, (HostState.drive_next hs).2⟩
  · cases hs
  · cases hs

end Sys2Proof.Machine
end

