-- ==== Sys2Proof/Laws/PerInstr.lean ====
section
/-! SUPPORT. Families of statements about every operation as syntax, one lemma per constructor.
`EncodeFits`: the word of an operation is in the format its opcode table row names and meets the row's mask and match
(opcode_table.json). -/

namespace Sys2Proof.Laws.EncodeFits

/-- `w` has format `f`, fits its width, and meets a row's match under the row's mask. -/
def Row (f : Format) (mask value : Nat) (w : CtlWord) : Prop :=
  w.fmt = f ∧ w.wf = true ∧ w.bits &&& mask = value

def Statement : Instr → Prop
  | .nop m => Row .cmd 0b10 0b00 (encode (.nop m))
  | .enc => Row .cmd 0b11 0b10 (encode .enc)
  | .dec => Row .cmd 0b11 0b11 (encode .dec)
  | .round r => Row .seq 0b110000 0b010000 (encode (.round r))
  | .reset c => Row .script 0b100 0b100 (encode (.reset c))
  | .ksHold dir r => Row .ksctl 0b1100000 0b0000000 (encode (.ksHold dir r))
  | .ksStep dir r => Row .ksctl 0b1100000 0b0100000 (encode (.ksStep dir r))
  | .ksLoad st dir r => Row .ksctl 0b1000000 0b1000000 (encode (.ksLoad st dir r))
  | .rpRound => Row .rpctl 0b1 0b0 (encode .rpRound)
  | .rpLast => Row .rpctl 0b1 0b1 (encode .rpLast)

theorem nop (m : Bool) : Statement (.nop m) := by unfold Statement Row; revert m; decide

theorem enc : Statement .enc := by unfold Statement Row; decide

theorem dec : Statement .dec := by unfold Statement Row; decide

theorem round (r : RoundIndex) : Statement (.round r) := by unfold Statement Row; revert r; decide

theorem reset (cmd : BitVec 2) : Statement (.reset cmd) := by unfold Statement Row; revert cmd; decide

theorem ksHold (dir : Mode) (rnd : RoundIndex) : Statement (.ksHold dir rnd) := by
  unfold Statement Row; cases dir <;> revert rnd <;> decide

theorem ksStep (dir : Mode) (rnd : RoundIndex) : Statement (.ksStep dir rnd) := by
  unfold Statement Row; cases dir <;> revert rnd <;> decide

theorem ksLoad (step : Bool) (dir : Mode) (rnd : RoundIndex) : Statement (.ksLoad step dir rnd) := by
  unfold Statement Row; cases step <;> cases dir <;> revert rnd <;> decide

theorem rpRound : Statement .rpRound := by unfold Statement Row; decide

theorem rpLast : Statement .rpLast := by unfold Statement Row; decide

end Sys2Proof.Laws.EncodeFits
end

