-- ==== Sys2Proof/Laws/State.lean ====
section
/-! SUPPORT. One lemma per field per update, so that no later proof unfolds a record update. -/

namespace Sys2Proof.Machine

/-! ### Updates of the bench -/

@[simp] theorem State.setCore_core (s : State) (k : CoreRegs) : (s.setCore k).core = k := rfl
@[simp] theorem State.setCore_corePorts (s : State) (k : CoreRegs) : (s.setCore k).corePorts = s.corePorts := rfl
@[simp] theorem State.setCore_ksu (s : State) (k : CoreRegs) : (s.setCore k).ksu = s.ksu := rfl
@[simp] theorem State.setCore_ksPorts (s : State) (k : CoreRegs) : (s.setCore k).ksPorts = s.ksPorts := rfl
@[simp] theorem State.setCore_ksSeen (s : State) (k : CoreRegs) : (s.setCore k).ksSeen = s.ksSeen := rfl
@[simp] theorem State.setCore_rpPorts (s : State) (k : CoreRegs) : (s.setCore k).rpPorts = s.rpPorts := rfl
@[simp] theorem State.setCore_rpSeen (s : State) (k : CoreRegs) : (s.setCore k).rpSeen = s.rpSeen := rfl
@[simp] theorem State.setCore_unit (s : State) (k : CoreRegs) : (s.setCore k).unit = s.unit := rfl
@[simp] theorem State.setCore_pending (s : State) (k : CoreRegs) : (s.setCore k).pending = s.pending := rfl

@[simp] theorem State.setKsu_core (s : State) (k : KeyRegs) : (s.setKsu k).core = s.core := rfl
@[simp] theorem State.setKsu_corePorts (s : State) (k : KeyRegs) : (s.setKsu k).corePorts = s.corePorts := rfl
@[simp] theorem State.setKsu_ksu (s : State) (k : KeyRegs) : (s.setKsu k).ksu = k := rfl
@[simp] theorem State.setKsu_ksPorts (s : State) (k : KeyRegs) : (s.setKsu k).ksPorts = s.ksPorts := rfl
@[simp] theorem State.setKsu_ksSeen (s : State) (k : KeyRegs) : (s.setKsu k).ksSeen = s.ksSeen := rfl
@[simp] theorem State.setKsu_rpPorts (s : State) (k : KeyRegs) : (s.setKsu k).rpPorts = s.rpPorts := rfl
@[simp] theorem State.setKsu_rpSeen (s : State) (k : KeyRegs) : (s.setKsu k).rpSeen = s.rpSeen := rfl
@[simp] theorem State.setKsu_unit (s : State) (k : KeyRegs) : (s.setKsu k).unit = s.unit := rfl
@[simp] theorem State.setKsu_pending (s : State) (k : KeyRegs) : (s.setKsu k).pending = s.pending := rfl

@[simp] theorem State.seeKs_core (s : State) (o : KeyOuts) : (s.seeKs o).core = s.core := rfl
@[simp] theorem State.seeKs_corePorts (s : State) (o : KeyOuts) : (s.seeKs o).corePorts = s.corePorts := rfl
@[simp] theorem State.seeKs_ksu (s : State) (o : KeyOuts) : (s.seeKs o).ksu = s.ksu := rfl
@[simp] theorem State.seeKs_ksPorts (s : State) (o : KeyOuts) : (s.seeKs o).ksPorts = s.ksPorts := rfl
@[simp] theorem State.seeKs_ksSeen (s : State) (o : KeyOuts) : (s.seeKs o).ksSeen = o := rfl
@[simp] theorem State.seeKs_rpPorts (s : State) (o : KeyOuts) : (s.seeKs o).rpPorts = s.rpPorts := rfl
@[simp] theorem State.seeKs_rpSeen (s : State) (o : KeyOuts) : (s.seeKs o).rpSeen = s.rpSeen := rfl
@[simp] theorem State.seeKs_unit (s : State) (o : KeyOuts) : (s.seeKs o).unit = s.unit := rfl
@[simp] theorem State.seeKs_pending (s : State) (o : KeyOuts) : (s.seeKs o).pending = s.pending := rfl

@[simp] theorem State.seeRp_core (s : State) (o : RoundOuts) : (s.seeRp o).core = s.core := rfl
@[simp] theorem State.seeRp_corePorts (s : State) (o : RoundOuts) : (s.seeRp o).corePorts = s.corePorts := rfl
@[simp] theorem State.seeRp_ksu (s : State) (o : RoundOuts) : (s.seeRp o).ksu = s.ksu := rfl
@[simp] theorem State.seeRp_ksPorts (s : State) (o : RoundOuts) : (s.seeRp o).ksPorts = s.ksPorts := rfl
@[simp] theorem State.seeRp_ksSeen (s : State) (o : RoundOuts) : (s.seeRp o).ksSeen = s.ksSeen := rfl
@[simp] theorem State.seeRp_rpPorts (s : State) (o : RoundOuts) : (s.seeRp o).rpPorts = s.rpPorts := rfl
@[simp] theorem State.seeRp_rpSeen (s : State) (o : RoundOuts) : (s.seeRp o).rpSeen = o := rfl
@[simp] theorem State.seeRp_unit (s : State) (o : RoundOuts) : (s.seeRp o).unit = s.unit := rfl
@[simp] theorem State.seeRp_pending (s : State) (o : RoundOuts) : (s.seeRp o).pending = s.pending := rfl

@[simp] theorem State.drive_core_core (s : State) (p : CorePorts) : (s.drive (.core p)).core = s.core := rfl
@[simp] theorem State.drive_core_corePorts (s : State) (p : CorePorts) : (s.drive (.core p)).corePorts = p := rfl
@[simp] theorem State.drive_core_ksu (s : State) (p : CorePorts) : (s.drive (.core p)).ksu = s.ksu := rfl
@[simp] theorem State.drive_core_ksPorts (s : State) (p : CorePorts) : (s.drive (.core p)).ksPorts = s.ksPorts := rfl
@[simp] theorem State.drive_core_ksSeen (s : State) (p : CorePorts) : (s.drive (.core p)).ksSeen = s.ksSeen := rfl
@[simp] theorem State.drive_core_rpPorts (s : State) (p : CorePorts) : (s.drive (.core p)).rpPorts = s.rpPorts := rfl
@[simp] theorem State.drive_core_rpSeen (s : State) (p : CorePorts) : (s.drive (.core p)).rpSeen = s.rpSeen := rfl
@[simp] theorem State.drive_core_unit (s : State) (p : CorePorts) : (s.drive (.core p)).unit = .core := rfl
@[simp] theorem State.drive_core_pending (s : State) (p : CorePorts) : (s.drive (.core p)).pending = s.pending := rfl

@[simp] theorem State.drive_ksu_core (s : State) (p : KeyPorts) : (s.drive (.ksu p)).core = s.core := rfl
@[simp] theorem State.drive_ksu_corePorts (s : State) (p : KeyPorts) : (s.drive (.ksu p)).corePorts = s.corePorts := rfl
@[simp] theorem State.drive_ksu_ksu (s : State) (p : KeyPorts) : (s.drive (.ksu p)).ksu = s.ksu := rfl
@[simp] theorem State.drive_ksu_ksPorts (s : State) (p : KeyPorts) : (s.drive (.ksu p)).ksPorts = p := rfl
@[simp] theorem State.drive_ksu_ksSeen (s : State) (p : KeyPorts) : (s.drive (.ksu p)).ksSeen = s.ksSeen := rfl
@[simp] theorem State.drive_ksu_rpPorts (s : State) (p : KeyPorts) : (s.drive (.ksu p)).rpPorts = s.rpPorts := rfl
@[simp] theorem State.drive_ksu_rpSeen (s : State) (p : KeyPorts) : (s.drive (.ksu p)).rpSeen = s.rpSeen := rfl
@[simp] theorem State.drive_ksu_unit (s : State) (p : KeyPorts) : (s.drive (.ksu p)).unit = .ksu := rfl
@[simp] theorem State.drive_ksu_pending (s : State) (p : KeyPorts) : (s.drive (.ksu p)).pending = s.pending := rfl

@[simp] theorem State.drive_rpu_core (s : State) (p : RoundPorts) : (s.drive (.rpu p)).core = s.core := rfl
@[simp] theorem State.drive_rpu_corePorts (s : State) (p : RoundPorts) : (s.drive (.rpu p)).corePorts = s.corePorts := rfl
@[simp] theorem State.drive_rpu_ksu (s : State) (p : RoundPorts) : (s.drive (.rpu p)).ksu = s.ksu := rfl
@[simp] theorem State.drive_rpu_ksPorts (s : State) (p : RoundPorts) : (s.drive (.rpu p)).ksPorts = s.ksPorts := rfl
@[simp] theorem State.drive_rpu_ksSeen (s : State) (p : RoundPorts) : (s.drive (.rpu p)).ksSeen = s.ksSeen := rfl
@[simp] theorem State.drive_rpu_rpPorts (s : State) (p : RoundPorts) : (s.drive (.rpu p)).rpPorts = p := rfl
@[simp] theorem State.drive_rpu_rpSeen (s : State) (p : RoundPorts) : (s.drive (.rpu p)).rpSeen = s.rpSeen := rfl
@[simp] theorem State.drive_rpu_unit (s : State) (p : RoundPorts) : (s.drive (.rpu p)).unit = .rpu := rfl
@[simp] theorem State.drive_rpu_pending (s : State) (p : RoundPorts) : (s.drive (.rpu p)).pending = s.pending := rfl

/-! ### The host's drives leave every register alone -/

@[simp] theorem State.drive_core (s : State) (d : Drive) : (s.drive d).core = s.core := by cases d <;> rfl
@[simp] theorem State.drive_ksu (s : State) (d : Drive) : (s.drive d).ksu = s.ksu := by cases d <;> rfl
@[simp] theorem State.drive_ksSeen (s : State) (d : Drive) : (s.drive d).ksSeen = s.ksSeen := by cases d <;> rfl
@[simp] theorem State.drive_rpSeen (s : State) (d : Drive) : (s.drive d).rpSeen = s.rpSeen := by cases d <;> rfl
@[simp] theorem State.drive_pending (s : State) (d : Drive) : (s.drive d).pending = s.pending := by cases d <;> rfl

@[simp] theorem State.advanceInputs_core (s : State) : s.advanceInputs.core = s.core := by
  unfold State.advanceInputs
  split <;> simp

@[simp] theorem State.advanceInputs_ksu (s : State) : s.advanceInputs.ksu = s.ksu := by
  unfold State.advanceInputs
  split <;> simp

@[simp] theorem State.advanceInputs_ksSeen (s : State) : s.advanceInputs.ksSeen = s.ksSeen := by
  unfold State.advanceInputs
  split <;> simp

@[simp] theorem State.advanceInputs_rpSeen (s : State) : s.advanceInputs.rpSeen = s.rpSeen := by
  unfold State.advanceInputs
  split <;> simp

@[simp] theorem State.advanceInputs_pending (s : State) : s.advanceInputs.pending = s.pending.tail := by
  unfold State.advanceInputs
  split <;> simp [*]

theorem State.advanceInputs_of_nil {s : State} (h : s.pending = []) : s.advanceInputs = s := by
  simp [State.advanceInputs, h]

theorem State.advanceInputs_of_cons {s : State} {d : Drive} {ds : List Drive} (h : s.pending = d :: ds) :
    s.advanceInputs = { s.drive d with pending := ds } := by
  simp [State.advanceInputs, h]

/-! ### Register writes of the core's steps -/

@[simp] theorem CoreRegs.load_c (m : Mode) (key data : Block) (k : CoreRegs) :
    (k.load m key data).c = hi28 (derivePermutedKey key) := rfl
@[simp] theorem CoreRegs.load_d (m : Mode) (key data : Block) (k : CoreRegs) :
    (k.load m key data).d = lo28 (derivePermutedKey key) := rfl
@[simp] theorem CoreRegs.load_l (m : Mode) (key data : Block) (k : CoreRegs) :
    (k.load m key data).l = hi32 (initialPermute data) := rfl
@[simp] theorem CoreRegs.load_r (m : Mode) (key data : Block) (k : CoreRegs) :
    (k.load m key data).r = lo32 (initialPermute data) := rfl
@[simp] theorem CoreRegs.load_rnd (m : Mode) (key data : Block) (k : CoreRegs) :
    (k.load m key data).rnd = 0 := rfl
@[simp] theorem CoreRegs.load_phase (m : Mode) (key data : Block) (k : CoreRegs) :
    (k.load m key data).phase = .run := rfl
@[simp] theorem CoreRegs.load_mode (m : Mode) (key data : Block) (k : CoreRegs) :
    (k.load m key data).mode = m := rfl
@[simp] theorem CoreRegs.load_out (m : Mode) (key data : Block) (k : CoreRegs) :
    (k.load m key data).out = k.out := rfl
@[simp] theorem CoreRegs.load_wasReset (m : Mode) (key data : Block) (k : CoreRegs) :
    (k.load m key data).wasReset = k.wasReset := rfl

@[simp] theorem CoreRegs.toIdle_c (k : CoreRegs) : k.toIdle.c = k.c := rfl
@[simp] theorem CoreRegs.toIdle_d (k : CoreRegs) : k.toIdle.d = k.d := rfl
@[simp] theorem CoreRegs.toIdle_l (k : CoreRegs) : k.toIdle.l = k.l := rfl
@[simp] theorem CoreRegs.toIdle_r (k : CoreRegs) : k.toIdle.r = k.r := rfl
@[simp] theorem CoreRegs.toIdle_rnd (k : CoreRegs) : k.toIdle.rnd = k.rnd := rfl
@[simp] theorem CoreRegs.toIdle_phase (k : CoreRegs) : k.toIdle.phase = .idle := rfl
@[simp] theorem CoreRegs.toIdle_mode (k : CoreRegs) : k.toIdle.mode = k.mode := rfl
@[simp] theorem CoreRegs.toIdle_out (k : CoreRegs) : k.toIdle.out = k.out := rfl
@[simp] theorem CoreRegs.toIdle_wasReset (k : CoreRegs) : k.toIdle.wasReset = true := rfl

@[simp] theorem KeyRegs.ofKey_c (cd : RoundKey) : (KeyRegs.ofKey cd).c = hi28 cd := rfl
@[simp] theorem KeyRegs.ofKey_d (cd : RoundKey) : (KeyRegs.ofKey cd).d = lo28 cd := rfl

@[simp] theorem CoreRegs.round_mode (k : CoreRegs) : k.round.mode = k.mode := by
  simp only [CoreRegs.round]
  split <;> rfl

@[simp] theorem CoreRegs.round_wasReset (k : CoreRegs) : k.round.wasReset = k.wasReset := by
  simp only [CoreRegs.round]
  split <;> rfl

@[simp] theorem CoreRegs.round_c (k : CoreRegs) : k.round.c = hi28 (rotate k.cd k.rnd k.mode) := by
  simp only [CoreRegs.round]
  split <;> rfl

@[simp] theorem CoreRegs.round_d (k : CoreRegs) : k.round.d = lo28 (rotate k.cd k.rnd k.mode) := by
  simp only [CoreRegs.round]
  split <;> rfl

theorem CoreRegs.round_of_lt {k : CoreRegs} (h : k.rnd.toNat < 15) :
    k.round.rnd = k.rnd + 1 ∧ k.round.phase = k.phase ∧ k.round.out = k.out := by
  simp [CoreRegs.round, h]

theorem CoreRegs.round_of_last {k : CoreRegs} (h : k.rnd = 15) :
    k.round.rnd = 0 ∧ k.round.phase = .done ∧
      k.round.out = finalPermute (joinHalves k.round.l k.round.r) := by
  simp [CoreRegs.round, h]

/-- The halves a ROUND step writes, by the round index. -/
theorem CoreRegs.round_halves (k : CoreRegs) :
    (k.round.l, k.round.r) =
      roundStep k.l k.r (compress (rotate k.cd k.rnd k.mode)) (decide (k.rnd = 15)) := by
  simp only [CoreRegs.round]
  split <;> rfl

end Sys2Proof.Machine
end

