-- ==== Sys2Proof/Laws/Step.lean ====
section
/-! SUPPORT. What the shared checks and a step can do, said once. -/

namespace Sys2Proof.Machine

/-! ### The check before a core operation -/

/-- `whenDefined` lets an operation through exactly in a safe state. -/
theorem State.whenDefined_of_safe {s : State} (h : s.Safe) (o : Host.Outcome State Fault Refusal) :
    s.whenDefined o = o := by
  obtain ⟨hr, hp⟩ := h
  unfold State.whenDefined
  rw [if_pos hr]
  split <;> first | rfl | contradiction

/-- If `whenDefined` answers a next state, the state was safe and the operation answered it. -/
theorem State.whenDefined_next {s t : State} {o : Host.Outcome State Fault Refusal}
    (h : s.whenDefined o = .next t) : s.Safe ∧ o = .next t := by
  unfold State.whenDefined at h
  split at h
  · rename_i hr
    cases hp : s.core.phase <;> simp_all [State.Safe]
  · cases h

theorem State.Ready.safe {s : State} (h : s.Ready) : s.Safe := by
  obtain ⟨hr, hp | hp⟩ := h <;> exact ⟨hr, by simp [hp]⟩

theorem State.Running.safe {s : State} (h : s.Running) : s.Safe := ⟨h.1, by simp [h.2]⟩

/-- A safe state is ready for a command or running a block. -/
theorem State.Safe.ready_or_running {s : State} (h : s.Safe) : s.Ready ∨ s.Running := by
  obtain ⟨hr, hp⟩ := h
  cases hph : s.core.phase <;> simp_all [State.Ready, State.Running]

/-! ### The meanings, where they complete -/

/-- ENC and DEC in one shared form: a LOAD when ready. -/
theorem State.command_of_ready {s : State} (h : s.Ready) (m : Mode) :
    s.command m = .next (s.setCore (s.core.load m s.corePorts.keyIn s.corePorts.dataIn)) := by
  have hp : s.core.phase ≠ .run := by rcases h.2 with h | h <;> simp [h]
  simp [State.command, State.whenDefined_of_safe h.safe, hp]

/-- ENC and DEC in RUN: nothing. -/
theorem State.command_of_running {s : State} (h : s.Running) (m : Mode) : s.command m = .next s := by
  simp [State.command, State.whenDefined_of_safe h.safe, h.2]

/-- Everything ENC and DEC can do. -/
theorem State.command_next {s t : State} {m : Mode} (h : s.command m = .next t) :
    (s.Ready ∧ t = s.setCore (s.core.load m s.corePorts.keyIn s.corePorts.dataIn)) ∨ (s.Running ∧ t = s) := by
  have hs := (State.whenDefined_next h).1
  rcases hs.ready_or_running with hr | hr
  · rw [State.command_of_ready hr] at h
    exact .inl ⟨hr, by simpa using h.symm⟩
  · rw [State.command_of_running hr] at h
    exact .inr ⟨hr, by simpa using h.symm⟩

/-- Everything NOP can do. -/
theorem execNop_next {s t : State} {m : Bool} (h : execNop m s = .next t) : s.Safe ∧ t = s := by
  obtain ⟨hs, h⟩ := State.whenDefined_next h
  exact ⟨hs, by simpa using h.symm⟩

/-- Everything ROUND can do. -/
theorem execRound_next {s t : State} {r : RoundIndex} (h : execRound r s = .next t) :
    s.Running ∧ s.core.rnd = r ∧ t = s.setCore s.core.round := by
  obtain ⟨hs, h⟩ := State.whenDefined_next h
  split at h
  · rename_i hc
    exact ⟨⟨hs.1, hc.1⟩, hc.2, by simpa using h.symm⟩
  · cases h

theorem execRound_of_running {s : State} (h : s.Running) :
    execRound s.core.rnd s = .next (s.setCore s.core.round) := by
  simp [execRound, State.whenDefined_of_safe h.safe, h.2]

/-! ### Selection -/

theorem decodeSeq_run (r : RoundIndex) : decodeSeq (Phase.run.toBits ++ r) = .op (.round r) := by
  revert r; decide

theorem decodeSeq_idle (r : RoundIndex) : decodeSeq (Phase.idle.toBits ++ r) = .reject .selectedByCmd := by
  revert r; decide

theorem decodeSeq_done (r : RoundIndex) : decodeSeq (Phase.done.toBits ++ r) = .reject .selectedByCmd := by
  revert r; decide

theorem decodeSeq_reserved (r : RoundIndex) : decodeSeq (Phase.reserved.toBits ++ r) = .reject .seqReserved := by
  revert r; decide

theorem decodeScript_rst (c : BitVec 2) : decodeScript (BitVec.ofBool true ++ c) = .reset c := by
  revert c; decide

theorem decodeCmd_nop {c : BitVec 2} (h : c.getLsbD 1 = false) : decodeCmd c = .nop (c.getLsbD 0) := by
  revert h; revert c; decide

theorem decodeCmd_enc {c : BitVec 2} (h : c.getLsbD 1 = true) (h0 : c.getLsbD 0 = false) : decodeCmd c = .enc := by
  revert h0; revert h; revert c; decide

theorem decodeCmd_dec {c : BitVec 2} (h : c.getLsbD 1 = true) (h0 : c.getLsbD 0 = true) : decodeCmd c = .dec := by
  revert h0; revert h; revert c; decide

/-- `rst` wins over everything (R118). -/
theorem State.selectCore_of_rst {s : State} (h : s.corePorts.rst = true) :
    s.selectCore = .op (.reset s.corePorts.cmd) := by
  rw [State.selectCore, if_pos h, State.scriptWord, h, decodeScript_rst]

/-- Without reset a block in progress wins over a command (R118). -/
theorem State.selectCore_of_running {s : State} (h : s.corePorts.rst = false) (hr : s.Running) :
    s.selectCore = .op (.round s.core.rnd) := by
  rw [State.selectCore, if_neg (by simp [h]), if_pos hr.1, State.seqWord, hr.2, decodeSeq_run]

/-- In IDLE and DONE the command is decoded (R118). -/
theorem State.selectCore_of_ready {s : State} (h : s.corePorts.rst = false) (hr : s.Ready) :
    s.selectCore = .op (decodeCmd s.corePorts.cmd) := by
  rw [State.selectCore, if_neg (by simp [h]), if_pos hr.1, State.seqWord]
  rcases hr.2 with hp | hp
  · rw [hp, decodeSeq_idle]
  · rw [hp, decodeSeq_done]

theorem State.selectCore_of_reserved {s : State} (h : s.corePorts.rst = false) (hw : s.core.wasReset = true)
    (hp : s.core.phase = .reserved) : s.selectCore = .refuse .reservedPhase := by
  rw [State.selectCore, if_neg (by simp [h]), if_pos hw, State.seqWord, hp, decodeSeq_reserved]

theorem State.selectCore_of_not_reset {s : State} (h : s.corePorts.rst = false) (hw : s.core.wasReset = false) :
    s.selectCore = .refuse .beforeFirstReset := by
  rw [State.selectCore, if_neg (by simp [h]), if_neg (by simp [hw])]

/-! ### A step -/

/-- Everything a step that completes can do: it selected an operation, the operation answered, the inputs advanced. -/
theorem step_next {s t : State} (h : step s = .next t) :
    ∃ i u, s.select = .op i ∧ exec i s = .next u ∧ t = u.advanceInputs := by
  unfold step at h
  split at h
  · cases h
  · rename_i i hi
    split at h
    · rename_i u hu
      exact ⟨i, u, hi, hu, by simpa using h.symm⟩
    · cases h
    · cases h

/-- A step of a stand-alone unit leaves the core's registers alone. -/
theorem step_next_of_standalone {s t : State} (h : step s = .next t) (hu : s.unit ≠ .core) : t.core = s.core := by
  obtain ⟨i, u, hi, he, rfl⟩ := step_next h
  rw [State.advanceInputs_core]
  cases hun : s.unit with
  | core => exact absurd hun hu
  | ksu =>
    simp only [State.select, hun, Selected.op.injEq] at hi
    subst hi
    unfold decodeKsctl at he
    split at he
    · cases he; rfl
    · split at he <;> (cases he; rfl)
  | rpu =>
    simp only [State.select, hun, Selected.op.injEq] at hi
    subst hi
    unfold decodeRpctl at he
    split at he <;> (cases he; rfl)

/-- Everything a step of the core can do to its registers: RESET, ROUND, HOLD or LOAD. -/
theorem step_next_of_core {s t : State} (h : step s = .next t) (hu : s.unit = .core) :
    (s.ResetsNext ∧ t.core = s.core.toIdle) ∨
    (s.RoundsNext ∧ t.core = s.core.round) ∨
    (s.corePorts.rst = false ∧ s.Ready ∧ s.corePorts.cmd.getLsbD 1 = false ∧ t.core = s.core) ∨
    (s.LoadsNext ∧
      t.core = s.core.load (Mode.ofBit (s.corePorts.cmd.getLsbD 0)) s.corePorts.keyIn s.corePorts.dataIn) := by
  obtain ⟨i, u, hi, he, rfl⟩ := step_next h
  rw [State.advanceInputs_core]
  simp only [State.select, hu] at hi
  cases hrst : s.corePorts.rst with
  | true =>
    rw [State.selectCore_of_rst hrst] at hi
    cases hi
    cases he
    exact .inl ⟨⟨hu, hrst⟩, rfl⟩
  | false =>
    right
    cases hw : s.core.wasReset with
    | false => rw [State.selectCore_of_not_reset hrst hw] at hi; cases hi
    | true =>
      by_cases hp : s.core.phase = .reserved
      · rw [State.selectCore_of_reserved hrst hw hp] at hi; cases hi
      rcases State.Safe.ready_or_running ⟨hw, hp⟩ with hr | hr
      · right
        rw [State.selectCore_of_ready hrst hr] at hi
        cases hi
        cases h1 : s.corePorts.cmd.getLsbD 1 with
        | false =>
          rw [decodeCmd_nop h1] at he
          obtain ⟨-, rfl⟩ := execNop_next (m := s.corePorts.cmd.getLsbD 0) he
          exact .inl ⟨rfl, hr, rfl, rfl⟩
        | true =>
          right
          refine ⟨⟨hu, hrst, h1, hr⟩, ?_⟩
          cases h0 : s.corePorts.cmd.getLsbD 0 with
          | false =>
            rw [decodeCmd_enc h1 h0, exec, execEnc, State.command_of_ready hr] at he
            cases he
            rfl
          | true =>
            rw [decodeCmd_dec h1 h0, exec, execDec, State.command_of_ready hr] at he
            cases he
            rfl
      · left
        rw [State.selectCore_of_running hrst hr] at hi
        cases hi
        obtain ⟨-, -, rfl⟩ := execRound_next he
        exact ⟨⟨hu, hrst, hr⟩, rfl⟩

/-! ### The three kinds of a core step exclude each other -/

theorem State.RoundsNext.not_loads {s : State} (h : s.RoundsNext) : ¬ s.LoadsNext := by
  rintro ⟨-, -, -, -, hp | hp⟩ <;> simp [h.2.2.2] at hp

theorem State.ResetsNext.not_loads {s : State} (h : s.ResetsNext) : ¬ s.LoadsNext := by
  rintro ⟨-, hr, -⟩
  simp [h.2] at hr

theorem State.ResetsNext.not_rounds {s : State} (h : s.ResetsNext) : ¬ s.RoundsNext := by
  rintro ⟨-, hr, -⟩
  simp [h.2] at hr

/-- Everything a step of the bench can do to the core's registers: RESET, ROUND, LOAD, or nothing (HOLD, or a step of
another unit), each case excluding the others. -/
theorem step_core_cases {s t : State} (h : step s = .next t) :
    (s.ResetsNext ∧ ¬ s.RoundsNext ∧ ¬ s.LoadsNext ∧ t.core = s.core.toIdle) ∨
    (¬ s.ResetsNext ∧ s.RoundsNext ∧ ¬ s.LoadsNext ∧ t.core = s.core.round) ∨
    (¬ s.ResetsNext ∧ ¬ s.RoundsNext ∧ s.LoadsNext ∧
      t.core = s.core.load (Mode.ofBit (s.corePorts.cmd.getLsbD 0)) s.corePorts.keyIn s.corePorts.dataIn) ∨
    (¬ s.ResetsNext ∧ ¬ s.RoundsNext ∧ ¬ s.LoadsNext ∧ t.core = s.core) := by
  by_cases hu : s.unit = .core
  · rcases step_next_of_core h hu with ⟨a, e⟩ | ⟨a, e⟩ | ⟨hr, hy, hc, e⟩ | ⟨a, e⟩
    · exact .inl ⟨a, a.not_rounds, a.not_loads, e⟩
    · exact .inr (.inl ⟨fun x => x.not_rounds a, a, a.not_loads, e⟩)
    · refine .inr (.inr (.inr ⟨fun x => ?_, fun x => ?_, fun x => ?_, e⟩))
      · simpa [hr] using x.2
      · rcases hy.2 with hp | hp <;> simpa [hp] using x.2.2.2
      · have h1 : s.corePorts.cmd.getLsbD 1 = true := x.2.2.1
        rw [hc] at h1
        cases h1
    · exact .inr (.inr (.inl ⟨fun x => x.not_loads a, fun x => x.not_loads a, a, e⟩))
  · exact .inr (.inr (.inr ⟨fun x => hu x.1, fun x => hu x.1, fun x => hu x.1, step_next_of_standalone h hu⟩))

end Sys2Proof.Machine
end

