-- ==== Sys2Proof/Laws/Run.lean ====
section
/-! SUPPORT. The two rules of a run of the machine, and the ports and pending drives across an operation. -/

namespace Sys2Proof.Machine

theorem hostCore_run_next (M : Host.Core) {s t : M.State} {n : Nat} (h : M.step s = .next t) :
    M.run (n + 1) s = M.run n t := by
  simp only [Host.Core.run, h]

theorem hostCore_run_refused (M : Host.Core) {s : M.State} {r : M.Refusal} {n : Nat} (h : M.step s = .refused r) :
    M.run (n + 1) s = .refused r := by
  simp only [Host.Core.run, h]

/-- A run goes on from the state its first step answers. -/
theorem run_next {s t : State} {n : Nat} (h : step s = .next t) :
    Sys2Proof.core.run (n + 1) s = Sys2Proof.core.run n t :=
  hostCore_run_next Sys2Proof.core h

theorem run_refused {s : State} {r : Refusal} {n : Nat} (h : step s = .refused r) :
    Sys2Proof.core.run (n + 1) s = .refused r :=
  hostCore_run_refused Sys2Proof.core h

/-- A run of one more step is a step from where the run ended. -/
theorem run_succ {s t : State} {n : Nat} (h : Sys2Proof.core.run n s = .next t) :
    Sys2Proof.core.run (n + 1) s = step t := by
  induction n generalizing s with
  | zero =>
    cases h
    cases ht : step t with
    | next u => exact (run_next ht).trans rfl
    | fault f => cases f
    | refused r => exact run_refused ht
  | succ n ih =>
    cases hs : step s with
    | next u =>
      rw [run_next hs] at h ⊢
      exact ih h
    | fault f => cases f
    | refused r =>
      rw [run_refused hs] at h
      cases h

/-- No operation drives a port, chooses the next unit or touches the pending drives. -/
theorem exec_inputs {i : Instr} {s t : State} (h : exec i s = .next t) :
    t.unit = s.unit ∧ t.corePorts = s.corePorts ∧ t.ksPorts = s.ksPorts ∧ t.rpPorts = s.rpPorts ∧
      t.pending = s.pending := by
  cases i with
  | nop m => obtain ⟨-, rfl⟩ := execNop_next (m := m) h; simp
  | enc => rcases State.command_next (m := .encrypt) h with ⟨-, rfl⟩ | ⟨-, rfl⟩ <;> simp
  | dec => rcases State.command_next (m := .decrypt) h with ⟨-, rfl⟩ | ⟨-, rfl⟩ <;> simp
  | round r => obtain ⟨-, -, rfl⟩ := execRound_next h; simp
  | reset c => cases h; simp
  | ksHold dir rnd => cases h; simp
  | ksStep dir rnd => cases h; simp
  | ksLoad st dir rnd => cases h; simp
  | rpRound => cases h; simp
  | rpLast => cases h; simp

end Sys2Proof.Machine
end

