-- ==== Sys2Proof/Tests/Slice0.lean ====
section
/-! SUPPORT. The model's own tests: words written out from the spec's encodings, ill-formed control words, one step of
each operation with the expected values of 95_test_vectors.md, and for every statement with hypotheses a witness that
meets them, clause by clause. -/

namespace Sys2Proof.Tests

open Sys2Proof.Machine

/-! ### Helpers -/

/-- Core registers from a phase, a round index, a mode, `C ‖ D`, `L`, `R` and `OUT`, after a reset. -/
def regs (ph : Phase) (rnd : RoundIndex) (m : Mode) (cd : RoundKey) (l r : Half) (out : Block) : CoreRegs :=
  { c := hi28 cd, d := lo28 cd, l := l, r := r, rnd := rnd, phase := ph, mode := m, out := out, wasReset := true }

/-- A bench whose core is clocked next, with `rst = 0`. -/
def bench (k : CoreRegs) (cmd : BitVec 2) (key data : Block) : State :=
  { State.reset with core := k, corePorts := { rst := false, cmd := cmd, keyIn := key, dataIn := data } }

/-- A bench in a phase and round, everything else zero. -/
def at_ (ph : Phase) (rnd : RoundIndex) (m : Mode) (cmd : BitVec 2) : State := bench (regs ph rnd m 0 0 0 0) cmd 0 0

/-- The bench at reset with `rst = 1`. -/
def resetting (ph : Phase) : State :=
  { State.reset with core := regs ph 7 .decrypt 0 0 0 0, corePorts := { rst := true, cmd := 2, keyIn := 0, dataIn := 0 } }

/-- The core before its first reset. -/
def powerOn : State := { State.reset with core := { State.reset.core with wasReset := false } }

/-- The stand-alone key schedule unit is clocked next, holding a round key. -/
def ksuBench (cd : RoundKey) (load step : Bool) (dir : Mode) (rnd : RoundIndex) (key : Block) : State :=
  { State.reset with
    ksu := KeyRegs.ofKey cd, ksPorts := { load := load, step := step, dir := dir, rnd := rnd, key := key },
    unit := .ksu }

/-- The stand-alone round processor is clocked next. -/
def rpuBench (l r : Half) (k : Subkey) (last : Bool) : State :=
  { State.reset with rpPorts := { l := l, r := r, k := k, last := last }, unit := .rpu }

/-- The answer is a next state of which `q` holds. -/
def answers (o : Host.Outcome State Fault Refusal) (q : State → Bool) : Bool :=
  match o with
  | .next t => q t
  | .fault _ => false
  | .refused _ => false

theorem of_answers {o : Host.Outcome State Fault Refusal} {q : State → Bool} (h : answers o q = true) :
    ∃ t, o = .next t ∧ q t = true := by
  cases o with
  | next t => exact ⟨t, rfl, h⟩
  | fault f => exact nomatch f
  | refused r => cases h

/-! ### Ill-formed control words are refused (R49) -/

theorem test_illformed_cmd : (CtlWord.mk .cmd 4).wf = false ∧ decode ⟨.cmd, 4⟩ = .reject (.tooWide .cmd) := by decide
theorem test_illformed_seq : (CtlWord.mk .seq 64).wf = false ∧ decode ⟨.seq, 64⟩ = .reject (.tooWide .seq) := by decide
theorem test_illformed_script :
    (CtlWord.mk .script 8).wf = false ∧ decode ⟨.script, 8⟩ = .reject (.tooWide .script) := by decide
theorem test_illformed_ksctl :
    (CtlWord.mk .ksctl 128).wf = false ∧ decode ⟨.ksctl, 128⟩ = .reject (.tooWide .ksctl) := by decide
theorem test_illformed_rpctl :
    (CtlWord.mk .rpctl 2).wf = false ∧ decode ⟨.rpctl, 2⟩ = .reject (.tooWide .rpctl) := by decide
/-- SEQ `11xxxx` is reserved (R57); `00xxxx` and `10xxxx` leave the step to the CMD word (R52). -/
theorem test_seq_rejects :
    decode ⟨.seq, 0b110000⟩ = .reject .seqReserved ∧ decode ⟨.seq, 0b111111⟩ = .reject .seqReserved ∧
    decode ⟨.seq, 0b001111⟩ = .reject .selectedByCmd ∧ decode ⟨.seq, 0b100000⟩ = .reject .selectedByCmd := by decide

/-! ### Words written out bit by bit from 30_encoding.md R50, R52, R53, R54, R60 -/

theorem test_decode_nop : decode ⟨.cmd, 0b00⟩ = .op (.nop false) ∧ decode ⟨.cmd, 0b01⟩ = .op (.nop true) := by decide
theorem test_decode_enc : decode ⟨.cmd, 0b10⟩ = .op .enc := by decide
theorem test_decode_dec : decode ⟨.cmd, 0b11⟩ = .op .dec := by decide
theorem test_decode_round :
    decode ⟨.seq, 0b010000⟩ = .op (.round 0) ∧ decode ⟨.seq, 0b011011⟩ = .op (.round 11) ∧
    decode ⟨.seq, 0b011111⟩ = .op (.round 15) := by decide
theorem test_decode_script :
    decode ⟨.script, 0b100⟩ = .op (.reset 0) ∧ decode ⟨.script, 0b110⟩ = .op (.reset 2) ∧
    decode ⟨.script, 0b010⟩ = .op .enc ∧ decode ⟨.script, 0b011⟩ = .op .dec ∧
    decode ⟨.script, 0b000⟩ = .op (.nop false) := by decide
theorem test_decode_ksHold :
    decode ⟨.ksctl, 0b0000000⟩ = .op (.ksHold .encrypt 0) ∧
    decode ⟨.ksctl, 0b0011001⟩ = .op (.ksHold .decrypt 9) := by decide
theorem test_decode_ksStep :
    decode ⟨.ksctl, 0b0100000⟩ = .op (.ksStep .encrypt 0) ∧
    decode ⟨.ksctl, 0b0110001⟩ = .op (.ksStep .decrypt 1) := by decide
theorem test_decode_ksLoad :
    decode ⟨.ksctl, 0b1000000⟩ = .op (.ksLoad false .encrypt 0) ∧
    decode ⟨.ksctl, 0b1100101⟩ = .op (.ksLoad true .encrypt 5) ∧
    decode ⟨.ksctl, 0b1010010⟩ = .op (.ksLoad false .decrypt 2) := by decide
theorem test_decode_rp : decode ⟨.rpctl, 0⟩ = .op .rpRound ∧ decode ⟨.rpctl, 1⟩ = .op .rpLast := by decide

/-- Every row's word, as a table word of its exact width, is selected by the first step after reset (log entry 7). -/
theorem test_first_step_after_reset :
    (State.reset.withFetchWord 2 0b01).select = .op (.nop true) ∧
    (State.reset.withFetchWord 2 0b10).select = .op .enc ∧
    (State.reset.withFetchWord 2 0b11).select = .op .dec ∧
    (State.reset.withFetchWord 6 0b011111).select = .op (.round 15) ∧
    (State.reset.withFetchWord 3 0b101).select = .op (.reset 1) ∧
    (State.reset.withFetchWord 7 0b0010001).select = .op (.ksHold .decrypt 1) ∧
    (State.reset.withFetchWord 7 0b0110001).select = .op (.ksStep .decrypt 1) ∧
    (State.reset.withFetchWord 7 0b1100101).select = .op (.ksLoad true .encrypt 5) ∧
    (State.reset.withFetchWord 1 0b0).select = .op .rpRound ∧
    (State.reset.withFetchWord 1 0b1).select = .op .rpLast := by decide

/-! ### One step of each operation, expected values from 95_test_vectors.md -/

/-- V53 row 5: `cmd = 01` in DONE holds. -/
theorem test_nop :
    answers (step (bench (regs .done 0 .encrypt 0xF0CCAAF556678F 0x0A4CD995 0x43423234 0x85E813540F0AB405) 1 0 0))
      (fun t => t.done && decide (t.core = regs .done 0 .encrypt 0xF0CCAAF556678F 0x0A4CD995 0x43423234
        0x85E813540F0AB405)) = true := by decide +kernel

/-- V53 row 1. -/
theorem test_enc :
    answers (step (bench (regs .idle 9 .decrypt 3 4 5 6) 2 0x133457799BBCDFF1 0x0123456789ABCDEF))
      (fun t => t.busy && decide (t.core = regs .run 0 .encrypt 0xF0CCAAF556678F 0xCC00CCFF 0xF0AAF0AA 6)) = true := by
  decide +kernel

/-- V53 row 6. -/
theorem test_dec :
    answers (step (bench (regs .done 0 .encrypt 0xF0CCAAF556678F 0x0A4CD995 0x43423234 0x85E813540F0AB405) 3
        0x133457799BBCDFF1 0x85E813540F0AB405))
      (fun t => decide (t.core = regs .run 0 .decrypt 0xF0CCAAF556678F 0x0A4CD995 0x43423234 0x85E813540F0AB405))
      = true := by decide +kernel

/-- V53 row 7: a round of a decryption, the ENC command dropped. -/
theorem test_round :
    answers (step (bench (regs .run 6 .decrypt 0x57F8665C7AAB33 0xB7D5D7B2 0x247CC67A 0x85E813540F0AB405) 2 0 0))
      (fun t => decide (t.core = regs .run 7 .decrypt 0x55FE199F1EAACC 0x247CC67A 0xD5694B90 0x85E813540F0AB405))
      = true := by decide +kernel

/-- V53 row 3: the last round, the DEC command dropped. -/
theorem test_round_last :
    answers (step (bench (regs .run 15 .encrypt 0xF866557AAB33C7 0xC28C960D 0x43423234 0) 3 0xFFFFFFFFFFFFFFFF 0))
      (fun t => t.done &&
        decide (t.core = regs .done 0 .encrypt 0xF0CCAAF556678F 0x0A4CD995 0x43423234 0x85E813540F0AB405))
      = true := by decide +kernel

/-- V53 row 8: reset abandons the block and writes `PHASE` only. -/
theorem test_reset :
    answers (exec (.reset 2)
        (bench (regs .run 7 .decrypt 0x55FE199F1EAACC 0x247CC67A 0xD5694B90 0x85E813540F0AB405) 2 0 0))
      (fun t => decide (t.core = regs .idle 7 .decrypt 0x55FE199F1EAACC 0x247CC67A 0xD5694B90 0x85E813540F0AB405))
      = true := by decide +kernel

/-- V11. -/
theorem test_ksLoad :
    answers (step (ksuBench 0x12345678ABCDEF true false .encrypt 0 0x133457799BBCDFF1))
      (fun t => decide (t.ksu = ⟨0xF0CCAAF, 0x556678F⟩ ∧ t.ksSeen = ⟨0x2468ACE1579BDF, 0x62748ACD5FCD⟩)) = true := by
  decide +kernel

/-- V12: load wins over step. -/
theorem test_ksLoad_priority :
    answers (step (ksuBench 0x12345678ABCDEF true true .encrypt 5 0x133457799BBCDFF1))
      (fun t => decide (t.ksu = ⟨0xF0CCAAF, 0x556678F⟩)) = true := by decide +kernel

/-- V13 rows 1 and 3. -/
theorem test_ksStep :
    answers (step (ksuBench 0xF0CCAAF556678F false true .encrypt 0 0))
      (fun t => decide (t.ksu.cd = 0xE19955FAACCF1E ∧ t.ksSeen.subkey = 0x1B02EFFC7072)) = true ∧
    answers (step (ksuBench 0xF0CCAAF556678F false true .decrypt 1 0))
      (fun t => decide (t.ksu.cd = 0xF866557AAB33C7 ∧ t.ksSeen.subkey = 0xBF918D3D3F0A)) = true := by decide +kernel

/-- V13 row 2: the first reverse step does not rotate. -/
theorem test_ksStep_reverse_first :
    answers (step (ksuBench 0xF0CCAAF556678F false true .decrypt 0 0))
      (fun t => decide (t.ksu.cd = 0xF0CCAAF556678F ∧ t.ksSeen.subkey = 0xCB3D8B0E17F5)) = true := by decide +kernel

/-- V13 row 5. -/
theorem test_ksHold :
    answers (step (ksuBench 0xF0CCAAF556678F false false .decrypt 1 0))
      (fun t => decide (t.ksu.cd = 0xF0CCAAF556678F ∧ t.ksSeen.subkey = 0xBF918D3D3F0A)) = true := by decide +kernel

/-- V19 rows 3 and 5. -/
theorem test_rpRound :
    answers (step (rpuBench 0x12345678 0x12345678 0 false))
      (fun t => decide (t.rpSeen.lNext = 0x12345678 ∧ t.rpSeen.rNext = 0x433583A5)) = true ∧
    answers (step (rpuBench 0xCC00CCFF 0xF0AAF0AA 0x1B02EFFC7072 false))
      (fun t => decide (t.rpSeen = ⟨0x234AA9BB, 0xF0AAF0AA, 0xEF4A6544⟩)) = true := by decide +kernel

/-- V19 row 4 and V20. -/
theorem test_rpLast :
    answers (step (rpuBench 0x12345678 0x12345678 0 true))
      (fun t => decide (t.rpSeen.lNext = 0x433583A5 ∧ t.rpSeen.rNext = 0x12345678)) = true ∧
    answers (step (rpuBench 0x12345678 0x9ABCDEF0 0x0123456789AB true))
      (fun t => decide (t.rpSeen.lNext = 0x1B339C10 ∧ t.rpSeen.rNext = 0x9ABCDEF0)) = true := by decide +kernel

/-- V33: a 7-byte buffer given to decrypt is padded with `0x30`. -/
theorem test_processBuffer_pads :
    processBuffer [0x85, 0xE8, 0x13, 0x54, 0x0F, 0x0A, 0xB4] [0x13, 0x34, 0x57, 0x79, 0x9B, 0xBC, 0xDF, 0xF1] .decrypt =
      .bytes [0x70, 0x0C, 0x82, 0x06, 0x31, 0x5B, 0x6C, 0x6D] := by decide +kernel

/-! ### Witnesses: each statement's hypotheses are met, clause by clause -/

theorem test_witness_EncodeOfDecode :
    decode ⟨.ksctl, 127⟩ = .op (.ksLoad true .decrypt 15) ∧ decode ⟨.cmd, 0⟩ = .op (.nop false) ∧
    decode ⟨.script, 4⟩ = .op (.reset 0) ∧ decode ⟨.script, 7⟩ = .op (.reset 3) ∧
    decode ⟨.script, 3⟩ = .op .dec ∧ decode ⟨.script, 0⟩ = .op (.nop false) := by decide

theorem test_witness_SequencerWord :
    (at_ .idle 15 .encrypt 0).core.phase = .idle ∧ (at_ .run 15 .encrypt 0).core.phase = .run ∧
    (at_ .done 0 .encrypt 0).core.phase = .done ∧ (at_ .reserved 0 .encrypt 0).core.phase = .reserved ∧
    ((at_ .run 15 .encrypt 0).unit = .core ∧ (at_ .run 15 .encrypt 0).corePorts.rst = false ∧
      (at_ .run 15 .encrypt 0).core.wasReset = true) ∧
    ((at_ .done 0 .encrypt 0).unit = .core ∧ (at_ .done 0 .encrypt 0).corePorts.rst = false ∧
      (at_ .done 0 .encrypt 0).core.wasReset = true) := by decide

theorem test_witness_StepRunsSelected :
    State.reset.select = .op (.nop false) ∧ powerOn.select = .refuse .beforeFirstReset ∧
    (at_ .reserved 0 .encrypt 0).select = .refuse .reservedPhase ∧ State.reset.pending = [] ∧
    ({ State.reset with pending := [.core ⟨true, 0, 0, 0⟩, .rpu ⟨0, 0, 0, true⟩] } : State).pending =
      .core ⟨true, 0, 0, 0⟩ :: [.rpu ⟨0, 0, 0, true⟩] := by decide

theorem test_witness_PlacedWordIsSelected :
    decode ⟨.cmd, 3⟩ = .op .dec ∧ decode ⟨.seq, 31⟩ = .op (.round 15) ∧ decode ⟨.script, 4⟩ = .op (.reset 0) ∧
    decode ⟨.ksctl, 0⟩ = .op (.ksHold .encrypt 0) ∧ decode ⟨.rpctl, 1⟩ = .op .rpLast := by decide

theorem test_witness_StepDecodeTable_reset :
    (resetting .run).unit = .core ∧ (resetting .run).corePorts.rst = true := by decide
theorem test_witness_StepDecodeTable_run :
    (at_ .run 3 .encrypt 2).unit = .core ∧ (at_ .run 3 .encrypt 2).corePorts.rst = false ∧
    (at_ .run 3 .encrypt 2).core.wasReset = true ∧ (at_ .run 3 .encrypt 2).core.phase = .run := by decide
theorem test_witness_StepDecodeTable_ready :
    ∀ cmd : BitVec 2, (at_ .idle 0 .encrypt cmd).unit = .core ∧ (at_ .idle 0 .encrypt cmd).corePorts.rst = false ∧
      (at_ .idle 0 .encrypt cmd).core.wasReset = true ∧
      ((at_ .idle 0 .encrypt cmd).core.phase = .idle ∨ (at_ .idle 0 .encrypt cmd).core.phase = .done) ∧
      ((at_ .idle 0 .encrypt cmd).corePorts.cmd.getLsbD 1 = false ∨ (at_ .idle 0 .encrypt cmd).corePorts.cmd = 0b10 ∨
        (at_ .idle 0 .encrypt cmd).corePorts.cmd = 0b11) := by decide
theorem test_witness_StepDecodeTable_reserved :
    (at_ .reserved 3 .encrypt 2).unit = .core ∧ (at_ .reserved 3 .encrypt 2).corePorts.rst = false ∧
    (at_ .reserved 3 .encrypt 2).core.wasReset = true ∧ (at_ .reserved 3 .encrypt 2).core.phase = .reserved := by decide

theorem test_witness_StandaloneSelection :
    (ksuBench 0 true true .decrypt 15 0).unit = .ksu ∧ (ksuBench 0 false false .encrypt 0 0).unit = .ksu ∧
    (rpuBench 0 0 0 true).unit = .rpu := by decide

theorem test_witness_NopHolds : (at_ .idle 0 .encrypt 0).Ready ∧ (at_ .done 15 .decrypt 1).Ready := by decide

theorem test_witness_EncDecLoad :
    (at_ .idle 0 .encrypt 2).Ready ∧ (at_ .done 0 .decrypt 3).Ready ∧ (at_ .run 15 .encrypt 2).Running ∧
    ((1 : Nat) ≤ 1 ∧ (1 : Nat) ≤ 32) ∧ ((1 : Nat) ≤ 32 ∧ (32 : Nat) ≤ 32) ∧ ((1 : Nat) ≤ 28 ∧ (28 : Nat) ≤ 28) := by
  decide

theorem test_witness_RoundStep :
    ((at_ .run 0 .decrypt 0).Running ∧ (at_ .run 0 .decrypt 0).core.mode = .decrypt ∧
      (at_ .run 0 .decrypt 0).core.rnd = 0) ∧
    ((at_ .run 14 .encrypt 0).Running ∧ (at_ .run 14 .encrypt 0).core.rnd.toNat < 15) ∧
    ((at_ .run 15 .encrypt 0).Running ∧ (at_ .run 15 .encrypt 0).core.rnd = 15) := by decide

theorem test_witness_CommandsDroppedWhileBusy :
    (at_ .run 15 .encrypt 3).Running ∧ (CorePorts.mk false 3 1 2).rst = false := by decide

theorem test_witness_ResetWritesPhaseOnly : (resetting .run).ResetsNext ∧ (resetting .reserved).ResetsNext := by decide

theorem test_witness_RefusedStates :
    (powerOn.core.wasReset = false ∧ powerOn.unit = .core ∧ powerOn.corePorts.rst = false) ∧
    ((at_ .reserved 0 .encrypt 0).core.wasReset = true ∧ (at_ .reserved 0 .encrypt 0).core.phase = .reserved ∧
      (at_ .reserved 0 .encrypt 0).unit = .core ∧ (at_ .reserved 0 .encrypt 0).corePorts.rst = false) ∧
    ((at_ .idle 3 .encrypt 0).Safe ∧ ¬ ((at_ .idle 3 .encrypt 0).core.phase = .run ∧
      (at_ .idle 3 .encrypt 0).core.rnd = (3 : RoundIndex))) ∧
    ((at_ .run 3 .encrypt 0).Safe ∧ ¬ ((at_ .run 3 .encrypt 0).core.phase = .run ∧
      (at_ .run 3 .encrypt 0).core.rnd = (4 : RoundIndex))) := by decide

theorem test_witness_KsStep :
    (0 : RoundIndex) = 0 ∧ (15 : RoundIndex) ≠ 0 ∧ ((1 : Nat) ≤ 28 ∧ (28 : Nat) ≤ 28) := by decide

theorem test_witness_StandaloneOutputs :
    (ksuBench 5 false true .decrypt 15 0).unit = .ksu ∧ (rpuBench 1 2 3 true).unit = .rpu := by decide

/-- One next state of every operation; a ROUND of 15 and one of another round. -/
theorem test_witness_OperationFrames :
    (∃ t, exec (.nop true) (at_ .idle 0 .encrypt 0) = .next t) ∧ (∃ t, exec .enc (at_ .done 0 .encrypt 0) = .next t) ∧
    (∃ t, exec .dec (at_ .run 0 .encrypt 0) = .next t) ∧ (∃ t, exec (.round 15) (at_ .run 15 .encrypt 0) = .next t) ∧
    (∃ t, exec (.round 14) (at_ .run 14 .encrypt 0) = .next t) ∧ (∃ t, exec (.reset 3) powerOn = .next t) ∧
    (∃ t, exec (.ksHold .decrypt 1) State.reset = .next t) ∧ (∃ t, exec (.ksStep .decrypt 1) State.reset = .next t) ∧
    (∃ t, exec (.ksLoad true .decrypt 1) State.reset = .next t) ∧ (∃ t, exec .rpRound State.reset = .next t) ∧
    (∃ t, exec .rpLast State.reset = .next t) :=
  ⟨⟨_, rfl⟩, ⟨_, rfl⟩, ⟨_, rfl⟩, ⟨_, rfl⟩, ⟨_, rfl⟩, ⟨_, rfl⟩, ⟨_, rfl⟩, ⟨_, rfl⟩, ⟨_, rfl⟩, ⟨_, rfl⟩, ⟨_, rfl⟩⟩

/-- A ROUND step of 15, and a step that is none. -/
theorem test_witness_OutWriter :
    (∃ t, step (at_ .run 15 .encrypt 0) = .next t) ∧ (at_ .run 15 .encrypt 0).RoundsNext ∧
    (at_ .run 15 .encrypt 0).core.rnd = 15 ∧ (∃ t, step (at_ .run 14 .encrypt 0) = .next t) ∧
    ¬ ((at_ .run 14 .encrypt 0).RoundsNext ∧ (at_ .run 14 .encrypt 0).core.rnd = 15) :=
  ⟨⟨_, rfl⟩, by decide, by decide, ⟨_, rfl⟩, by decide⟩

/-- One step of each kind: reset, load, last round, an earlier round, hold. -/
theorem test_witness_PhaseWriters :
    ((∃ t, step (resetting .run) = .next t) ∧ (resetting .run).ResetsNext) ∧
    ((∃ t, step (at_ .done 0 .encrypt 3) = .next t) ∧ (at_ .done 0 .encrypt 3).LoadsNext) ∧
    ((∃ t, step (at_ .run 15 .encrypt 0) = .next t) ∧ (at_ .run 15 .encrypt 0).RoundsNext ∧
      (at_ .run 15 .encrypt 0).core.rnd = 15) ∧
    ((∃ t, step (at_ .run 14 .encrypt 3) = .next t) ∧ ¬ (at_ .run 14 .encrypt 3).ResetsNext ∧
      ¬ (at_ .run 14 .encrypt 3).LoadsNext ∧
      ¬ ((at_ .run 14 .encrypt 3).RoundsNext ∧ (at_ .run 14 .encrypt 3).core.rnd = 15)) :=
  ⟨⟨⟨_, rfl⟩, by decide⟩, ⟨⟨_, rfl⟩, by decide⟩, ⟨⟨_, rfl⟩, by decide, by decide⟩,
    ⟨⟨_, rfl⟩, by decide, by decide, by decide⟩⟩

theorem test_witness_ModeWriter :
    ((∃ t, step (at_ .idle 0 .encrypt 3) = .next t) ∧ (at_ .idle 0 .encrypt 3).LoadsNext) ∧
    ((∃ t, step (at_ .idle 0 .decrypt 1) = .next t) ∧ ¬ (at_ .idle 0 .decrypt 1).LoadsNext) ∧
    ((∃ t, step (at_ .run 0 .decrypt 2) = .next t) ∧ (at_ .run 0 .decrypt 2).RoundsNext) :=
  ⟨⟨⟨_, rfl⟩, by decide⟩, ⟨⟨_, rfl⟩, by decide⟩, ⟨⟨_, rfl⟩, by decide⟩⟩

theorem test_witness_RoundCounter :
    ((∃ t, step (at_ .idle 9 .encrypt 2) = .next t) ∧ (at_ .idle 9 .encrypt 2).LoadsNext) ∧
    ((∃ t, step (at_ .run 14 .encrypt 0) = .next t) ∧ (at_ .run 14 .encrypt 0).RoundsNext ∧
      (at_ .run 14 .encrypt 0).core.rnd.toNat < 15) ∧
    ((∃ t, step (at_ .run 15 .encrypt 0) = .next t) ∧ (at_ .run 15 .encrypt 0).RoundsNext ∧
      (at_ .run 15 .encrypt 0).core.rnd = 15) ∧
    ((∃ t, step (at_ .done 5 .encrypt 0) = .next t) ∧ ¬ (at_ .done 5 .encrypt 0).LoadsNext ∧
      ¬ (at_ .done 5 .encrypt 0).RoundsNext) :=
  ⟨⟨⟨_, rfl⟩, by decide⟩, ⟨⟨_, rfl⟩, by decide, by decide⟩, ⟨⟨_, rfl⟩, by decide, by decide⟩,
    ⟨⟨_, rfl⟩, by decide, by decide⟩⟩

theorem test_witness_KeyAndDataWriters :
    ((∃ t, step (resetting .run) = .next t) ∧ ¬ (resetting .run).LoadsNext ∧ ¬ (resetting .run).RoundsNext ∧
      (resetting .run).unit ≠ .ksu) ∧
    ((∃ t, step (ksuBench 5 false true .encrypt 0 0) = .next t) ∧ (ksuBench 5 false true .encrypt 0 0).unit ≠ .core) :=
  ⟨⟨⟨_, rfl⟩, by decide, by decide, by decide⟩, ⟨⟨_, rfl⟩, by decide⟩⟩

/-- Last round, waiting in DONE, load, reset, and an idle step that leaves `done` low. -/
theorem test_witness_DoneOutput :
    ((∃ t, step (at_ .run 15 .encrypt 0) = .next t) ∧ (at_ .run 15 .encrypt 0).RoundsNext ∧
      (at_ .run 15 .encrypt 0).core.rnd = 15) ∧
    ((∃ t, step (at_ .done 0 .encrypt 1) = .next t) ∧ (at_ .done 0 .encrypt 1).done = true ∧
      ¬ (at_ .done 0 .encrypt 1).LoadsNext ∧ ¬ (at_ .done 0 .encrypt 1).ResetsNext) ∧
    ((∃ t, step (at_ .done 0 .encrypt 2) = .next t) ∧ (at_ .done 0 .encrypt 2).LoadsNext) ∧
    ((∃ t, step (resetting .done) = .next t) ∧ (resetting .done).ResetsNext) ∧
    ((∃ t, step (at_ .run 14 .encrypt 1) = .next t) ∧ (at_ .run 14 .encrypt 1).done = false ∧
      ¬ ((at_ .run 14 .encrypt 1).RoundsNext ∧ (at_ .run 14 .encrypt 1).core.rnd = 15)) :=
  ⟨⟨⟨_, rfl⟩, by decide, by decide⟩, ⟨⟨_, rfl⟩, by decide, by decide, by decide⟩, ⟨⟨_, rfl⟩, by decide⟩,
    ⟨⟨_, rfl⟩, by decide⟩, ⟨⟨_, rfl⟩, by decide, by decide⟩⟩

theorem test_witness_ResultStable :
    (∃ t, step (at_ .done 0 .encrypt 1) = .next t) ∧ (at_ .done 0 .encrypt 1).done = true ∧
    ¬ (at_ .done 0 .encrypt 1).LoadsNext ∧ ¬ (at_ .done 0 .encrypt 1).ResetsNext :=
  ⟨⟨_, rfl⟩, by decide, by decide, by decide⟩

/-- In RUN with two different commands, keys and blocks; and in two resets. -/
theorem test_witness_InputsSampledByLoadOnly :
    ((CorePorts.mk false 2 1 2).rst = (CorePorts.mk false 1 3 4).rst ∧
      ¬ ((at_ .run 3 .encrypt 0).drive (.core ⟨false, 2, 1, 2⟩)).LoadsNext ∧
      ¬ ((at_ .run 3 .encrypt 0).drive (.core ⟨false, 1, 3, 4⟩)).LoadsNext ∧
      (∃ t, step ((at_ .run 3 .encrypt 0).drive (.core ⟨false, 2, 1, 2⟩)) = .next t) ∧
      (∃ t, step ((at_ .run 3 .encrypt 0).drive (.core ⟨false, 1, 3, 4⟩)) = .next t)) ∧
    ((CorePorts.mk true 2 1 2).rst = (CorePorts.mk true 3 3 4).rst ∧
      ¬ ((at_ .idle 3 .encrypt 0).drive (.core ⟨true, 2, 1, 2⟩)).LoadsNext ∧
      ¬ ((at_ .idle 3 .encrypt 0).drive (.core ⟨true, 3, 3, 4⟩)).LoadsNext ∧
      (∃ t, step ((at_ .idle 3 .encrypt 0).drive (.core ⟨true, 2, 1, 2⟩)) = .next t) ∧
      (∃ t, step ((at_ .idle 3 .encrypt 0).drive (.core ⟨true, 3, 3, 4⟩)) = .next t)) :=
  ⟨⟨rfl, by decide, by decide, ⟨_, rfl⟩, ⟨_, rfl⟩⟩, ⟨rfl, by decide, by decide, ⟨_, rfl⟩, ⟨_, rfl⟩⟩⟩

/-- The last round of a block, which enters DONE; and a state before the first reset, in the reserved phase, which a
reset step leaves. -/
theorem test_witness_PhaseInvKept :
    ((at_ .run 15 .encrypt 0).PhaseInv ∧ ∃ t, step (at_ .run 15 .encrypt 0) = .next t) ∧
    (({ resetting .reserved with core := { (resetting .reserved).core with wasReset := false } } : State).PhaseInv ∧
      ∃ t, step { resetting .reserved with core := { (resetting .reserved).core with wasReset := false } } =
        .next t) :=
  ⟨⟨by decide, ⟨_, rfl⟩⟩, ⟨by decide, ⟨_, rfl⟩⟩⟩

theorem test_witness_SafeStepsComplete :
    (at_ .idle 0 .encrypt 3).Safe ∧ (at_ .run 15 .decrypt 3).Safe ∧ (resetting .done).Safe ∧
    (ksuBench 1 true true .decrypt 2 3).Safe ∧ (rpuBench 1 2 3 true).Safe := by decide

theorem test_witness_LoadStartsBlock :
    (bench (regs .idle 9 .decrypt 3 4 5 6) 2 0x133457799BBCDFF1 0x0123456789ABCDEF).LoadsNext ∧
    (bench (regs .done 0 .decrypt 3 4 5 6) 3 0x133457799BBCDFF1 0x0123456789ABCDEF).LoadsNext := by decide

/-- The registers of V53 rows 2, 3 and 4 for the block of V1: after 0 rounds, before the last, and finished. -/
theorem test_witness_BlockInvKept :
    (BlockInv 0x0123456789ABCDEF 0x133457799BBCDFF1 .encrypt
        (bench (regs .run 0 .encrypt 0xF0CCAAF556678F 0xCC00CCFF 0xF0AAF0AA 0) 0 0 0) ∧
      BlockInv 0x0123456789ABCDEF 0x133457799BBCDFF1 .encrypt
        (bench (regs .run 15 .encrypt 0xF866557AAB33C7 0xC28C960D 0x43423234 0) 3 0 0) ∧
      BlockInv 0x0123456789ABCDEF 0x133457799BBCDFF1 .encrypt
        (bench (regs .done 0 .encrypt 0xF0CCAAF556678F 0x0A4CD995 0x43423234 0x85E813540F0AB405) 0 0 0)) ∧
    (∃ t, step (bench (regs .run 15 .encrypt 0xF866557AAB33C7 0xC28C960D 0x43423234 0) 3 0 0) = .next t) ∧
    ¬ (bench (regs .run 15 .encrypt 0xF866557AAB33C7 0xC28C960D 0x43423234 0) 3 0 0).LoadsNext :=
  ⟨by decide +kernel, ⟨_, rfl⟩, by decide⟩

/-- With nothing pending, and with a host that drives commands all along. -/
theorem test_witness_SixteenRoundsComputeProcessBlock :
    ((at_ .idle 0 .encrypt 2).LoadsNext ∧ ∀ d ∈ (at_ .idle 0 .encrypt 2).pending.take 16, d.NoReset) ∧
    (({ at_ .done 0 .encrypt 3 with pending := List.replicate 16 (.core ⟨false, 3, 5, 6⟩) } : State).LoadsNext ∧
      ∀ d ∈ ({ at_ .done 0 .encrypt 3 with pending := List.replicate 16 (.core ⟨false, 3, 5, 6⟩) } :
        State).pending.take 16, d.NoReset) ∧ (15 : Nat) < 16 := by
  refine ⟨⟨by decide, fun d h => ?_⟩, ⟨by decide, fun d h => ?_⟩, by decide⟩
  · cases h
  · have := List.eq_of_mem_replicate (List.mem_of_mem_take h)
    subst this
    rfl

/-- Two states that differ in every unspecified register, in IDLE; in `OUT`, in RUN; and in the working registers, in
DONE. Each steps, and two of the same pair before the first reset are refused. -/
theorem test_witness_UnspecifiedNeverRead :
    ((bench (regs .idle 3 .encrypt 1 2 3 4) 2 5 6).SameSpecified (bench (regs .idle 9 .decrypt 5 6 7 8) 2 5 6) ∧
      ∃ t, step (bench (regs .idle 3 .encrypt 1 2 3 4) 2 5 6) = .next t) ∧
    ((bench (regs .run 15 .encrypt 1 2 3 4) 2 5 6).SameSpecified (bench (regs .run 15 .encrypt 1 2 3 8) 2 5 6) ∧
      ∃ t, step (bench (regs .run 15 .encrypt 1 2 3 4) 2 5 6) = .next t) ∧
    ((bench (regs .done 3 .encrypt 1 2 3 4) 0 5 6).SameSpecified (bench (regs .done 9 .decrypt 5 6 7 4) 0 5 6) ∧
      ∃ t, step (bench (regs .done 3 .encrypt 1 2 3 4) 0 5 6) = .next t) ∧
    (powerOn.SameSpecified { powerOn with core := { powerOn.core with out := 7, l := 9 } } ∧
      step powerOn = .refused .beforeFirstReset) :=
  ⟨⟨⟨rfl, rfl, by decide, by decide, rfl⟩, ⟨_, rfl⟩⟩, ⟨⟨rfl, rfl, by decide, by decide, rfl⟩, ⟨_, rfl⟩⟩,
    ⟨⟨rfl, rfl, by decide, by decide, rfl⟩, ⟨_, rfl⟩⟩, ⟨⟨rfl, rfl, by decide, by decide, rfl⟩, rfl⟩⟩

theorem test_witness_PermuteBits :
    tablePC2.length = 48 ∧ (∀ p ∈ tablePC2, 1 ≤ p ∧ p ≤ 56) ∧ ((1 : Nat) ≤ 1 ∧ (1 : Nat) ≤ 48) ∧
    ((1 : Nat) ≤ 48 ∧ (48 : Nat) ≤ 48) := by decide

theorem test_witness_RotationBits :
    (0 : Nat) ≤ 27 ∧ ((27 : Nat) ≤ 27 ∧ (1 : Nat) ≤ 27) ∧ ((1 : Nat) ≤ 28 ∧ (28 : Nat) ≤ 28) := by decide

theorem test_witness_SubstitutionNibbles :
    ((1 : Nat) ≤ 1 ∧ (1 : Nat) ≤ 8) ∧ ((1 : Nat) ≤ 8 ∧ (8 : Nat) ≤ 8) := by decide

theorem test_witness_ReverseRotationUndoes : (1 : RoundIndex) ≠ 0 ∧ (15 : RoundIndex) ≠ 0 := by decide

theorem test_witness_EncryptionSequence : (0 : Nat) < 16 ∧ (15 : Nat) < 16 := by decide

theorem test_witness_DecryptionSequence : (0 : Nat) < 16 ∧ (15 : Nat) < 16 := by decide

/-- The two keys of V22 differ in all eight parity bits and in no other. -/
theorem test_witness_ParityIndependence :
    ∀ i, 1 ≤ i → i ≤ 64 → i % 8 ≠ 0 → bit (0x133457799BBCDFF1 : Block) i = bit (0x123556789ABDDEF0 : Block) i := by
  have h : ∀ i ∈ List.range 65, i % 8 ≠ 0 →
      bit (0x133457799BBCDFF1 : Block) i = bit (0x123556789ABDDEF0 : Block) i := by decide
  exact fun i _ h2 => h i (List.mem_range.mpr (by omega))

/-- Three of the four kinds of constant schedule: V25, V26, V27. -/
theorem test_witness_ConstantSchedules :
    (ConstantHalf (hi28 (derivePermutedKey 0x0101010101010101)) ∧
      ConstantHalf (lo28 (derivePermutedKey 0x0101010101010101))) ∧
    (ConstantHalf (hi28 (derivePermutedKey 0xFEFEFEFEFEFEFEFE)) ∧
      ConstantHalf (lo28 (derivePermutedKey 0xFEFEFEFEFEFEFEFE))) ∧
    (ConstantHalf (hi28 (derivePermutedKey 0x1F1F1F1F0E0E0E0E)) ∧
      ConstantHalf (lo28 (derivePermutedKey 0x1F1F1F1F0E0E0E0E))) := by decide +kernel

theorem test_witness_FeistelSymmetry : (List.replicate 16 (0x0123456789AB : Subkey)).length = 16 := by decide

theorem test_witness_FinalInvertsInitial : ((1 : Nat) ≤ 1 ∧ (1 : Nat) ≤ 64) ∧ ((1 : Nat) ≤ 64 ∧ (64 : Nat) ≤ 64) := by
  decide

/-- V31: "ABC" encrypts to a block; an aligned buffer, the empty one too. -/
theorem test_witness_RoundTrip :
    Mode.encrypt ≠ Mode.decrypt ∧ Mode.decrypt ≠ Mode.encrypt ∧
    processBuffer [0x41, 0x42, 0x43] [0x13, 0x34, 0x57, 0x79, 0x9B, 0xBC, 0xDF, 0xF1] .encrypt =
      .bytes [0x8C, 0x92, 0x89, 0x94, 0x7D, 0x2D, 0x0F, 0x42] ∧
    ([] : List Byte).length % 8 = 0 ∧ (List.replicate 8 (0x30 : Byte)).length % 8 = 0 := by decide +kernel

theorem test_witness_InstancesIndependent :
    ∃ (cfg : Config.Instances) (a b : Vector State cfg.nCores) (h : 1 < cfg.nCores), a ≠ b ∧ a[1] = b[1] :=
  ⟨⟨2, by decide⟩, #v[State.reset, State.reset], #v[powerOn, State.reset], by decide, by decide, by decide⟩

theorem test_witness_ByteOrder :
    ([0x01, 0x23, 0x45, 0x67, 0x89, 0xAB, 0xCD, 0xEF] : List Byte).length = 8 ∧ ((0 : Nat) < 8 ∧ (7 : Nat) < 8) ∧
    ((1 : Nat) ≤ 8 ∧ (8 : Nat) ≤ 8) := by decide

/-- The lengths of V39. -/
theorem test_witness_WrongLengthsReported :
    (List.replicate 7 (0 : Byte)).length ≠ 8 ∧ (List.replicate 9 (0 : Byte)).length ≠ 8 ∧
    (List.replicate 8 (0 : Byte)).length = 8 ∧ ([] : List Byte).length ≠ 8 := by decide

theorem test_witness_PaddingRule :
    ([] : List Byte).length % 8 = 0 ∧ (List.replicate 16 (0 : Byte)).length % 8 = 0 ∧
    (List.replicate 7 (0 : Byte)).length % 8 ≠ 0 ∧ (List.replicate 9 (0 : Byte)).length % 8 ≠ 0 := by decide

/-- A key of sixteen bytes; a key of eight, an aligned buffer, and its only block inside its output (V35, V39). -/
theorem test_witness_BufferBlocksIndependent :
    (List.replicate 16 (0 : Byte)).length ≠ 8 ∧ ([0x13, 0x34, 0x57, 0x79, 0x9B, 0xBC, 0xDF, 0xF1] : List Byte).length = 8 ∧
    (∃ out, processBuffer [0x01, 0x23, 0x45, 0x67, 0x89, 0xAB, 0xCD, 0xEF]
        [0x13, 0x34, 0x57, 0x79, 0x9B, 0xBC, 0xDF, 0xF1] .encrypt = .bytes out ∧ 8 * 0 < out.length) ∧
    ([0x01, 0x23, 0x45, 0x67, 0x89, 0xAB, 0xCD, 0xEF] : List Byte).length % 8 = 0 :=
  ⟨by decide, by decide, ⟨_, rfl, by decide +kernel⟩, by decide⟩

/-- A host with a ready device, one variable, one offset and a buffer of sixteen bytes. -/
def host (line : Nat) : HostState :=
  { device := State.reset, vars := [(0, 0x133457799BBCDFF1)], offsets := [(1, 8)],
    inBuf := List.replicate 16 0x30, outBuf := List.replicate 16 0, line := line }

theorem test_witness_BlockScriptComputes_encrypt :
    (encb 2 (.var 0) (.lit 5))[(host 0).line]? = some (.enc (.var 0) (.lit 5)) ∧
    (encb 2 (.var 0) (.lit 5))[(host 0).line + 1]? = some .wait ∧
    (encb 2 (.var 0) (.lit 5))[(host 0).line + 2]? = some (.rd 2) ∧
    (host 0).value (.var 0) = some 0x133457799BBCDFF1 ∧ (host 0).value (.lit 5) = some 5 ∧
    (host 0).device.Ready := by decide

theorem test_witness_BlockScriptComputes_decrypt :
    (HostLine.rst :: decb 2 (.lit 7) (.lit 5))[(host 1).line]? = some (.dec (.lit 7) (.lit 5)) ∧
    (HostLine.rst :: decb 2 (.lit 7) (.lit 5))[(host 1).line + 1]? = some .wait ∧
    (HostLine.rst :: decb 2 (.lit 7) (.lit 5))[(host 1).line + 2]? = some (.rd 2) ∧
    (host 1).value (.lit 7) = some 7 ∧ (host 1).value (.lit 5) = some 5 ∧ (host 1).device.Ready := by decide

/-- Every kind of script line takes the host on somewhere: BLT taken (8 is below 9) and not taken (8 is not below 8),
WAIT both ways; and the host has a variable and an offset beside the ones a line sets. -/
theorem test_witness_HostLinesTakeNoStep :
    (∃ h, hostStep [.rd 3] (host 0) = .next h) ∧ (∃ h, hostStep [.ldb 3 1] (host 0) = .next h) ∧
    (∃ h, hostStep [.stb 1 0] (host 0) = .next h) ∧ (∃ h, hostStep [.add 1 8] (host 0) = .next h) ∧
    (∃ h, hostStep [.blt 1 9 4, .label 4] (host 0) = .next h) ∧
    (∃ h, hostStep [.blt 1 8 4, .label 4] (host 0) = .next h) ∧ (∃ h, hostStep [.label 4] (host 0) = .next h) ∧
    ((host 0).device.done = false ∧ ∃ h, hostStep [.wait] (host 0) = .next h) ∧
    (({ host 0 with device := at_ .done 0 .encrypt 0 } : HostState).device.done = true ∧
      ∃ h, hostStep [.wait] { host 0 with device := at_ .done 0 .encrypt 0 } = .next h) ∧
    (∃ h, hostStep [.rst] (host 0) = .next h) ∧ (∃ h, hostStep [.nop] (host 0) = .next h) ∧
    (∃ h, hostStep [.enc (.var 0) (.lit 5)] (host 0) = .next h) ∧
    (∃ h, hostStep [.dec (.lit 5) (.var 0)] (host 0) = .next h) ∧ (0 : Nat) ≠ 3 ∧ (2 : Nat) ≠ 1 :=
  ⟨⟨_, rfl⟩, ⟨_, rfl⟩, ⟨_, rfl⟩, ⟨_, rfl⟩, ⟨_, rfl⟩, ⟨_, rfl⟩, ⟨_, rfl⟩, ⟨by decide, ⟨_, rfl⟩⟩,
    ⟨by decide, ⟨_, rfl⟩⟩, ⟨_, rfl⟩, ⟨_, rfl⟩, ⟨_, rfl⟩, ⟨_, rfl⟩, by decide, by decide⟩

/-- The host at offset 8 of sixteen bytes meets every line's condition: LDB and STB of the last eight bytes, BLT taken
and not taken, WAIT on a busy and on a finished device. -/
theorem test_witness_HostLinesComplete :
    (∀ l : HostLine, [l][(host 0).line]? = some l) ∧
    [HostLine.blt 1 9 4, .label 4][(host 0).line]? = some (.blt 1 9 4) ∧
    (lookupVar (host 0).offsets 1 = some 8 ∧ 8 + 8 ≤ (host 0).inBuf.length ∧ 8 + 8 ≤ (host 0).outBuf.length ∧
      (host 0).value (.var 0) = some 0x133457799BBCDFF1) ∧
    (8 < 9 ∧ HostLine.label 4 ∈ [HostLine.blt 1 9 4, .label 4]) ∧ ¬ (8 < 8) ∧
    (at_ .done 0 .encrypt 0).done = true ∧ (at_ .run 15 .encrypt 0).Safe ∧ (host 0).device.Safe ∧
    (host 0).value (.lit 5) = some 5 :=
  ⟨fun _ => rfl, by decide⟩

/-- A block at the end of a buffer; one byte past it; and the places right before and right after a block. -/
theorem test_witness_HostBufferReadAfterWrite :
    8 + 8 ≤ (List.replicate 16 (0 : Byte)).length ∧ (List.replicate 15 (0 : Byte)).length < 8 + 8 ∧
    ([] : List Byte).length < 0 + 8 ∧
    ((0 : Nat) + 8 ≤ 8 ∨ (8 : Nat) + 8 ≤ 0) ∧ ((16 : Nat) + 8 ≤ 8 ∨ (8 : Nat) + 8 ≤ 16) := by decide

end Sys2Proof.Tests
end

section
/-! PROOFS. The permutation and rotation primitives, bit by bit (00_scope.md R11, R12). -/

namespace Sys2Proof.Machine

/-! ### Permutation -/

/-- `permute` appends the bit of each table entry at the least significant end. -/
theorem permute_append_singleton {w : Nat} (m : Nat) (T : List Nat) (p : Nat) (v : BitVec w) :
    permute (m + 1) (T ++ [p]) v = (permute m T v).concat (bit v p) := by
  apply BitVec.eq_of_toNat_eq
  simp only [permute, List.foldl_append, List.foldl_cons, List.foldl_nil, BitVec.toNat_ofNat, BitVec.toNat_concat]
  generalize T.foldl _ 0 = acc
  have hlow : (bit v p).toNat < 2 := Bool.toNat_lt _
  have hdiv : (2 * acc + (bit v p).toNat) / 2 = acc := by omega
  rw [Nat.pow_succ', Nat.mod_mul, hdiv]
  omega

theorem bit_concat_of_le {m : Nat} (x : BitVec m) (b : Bool) {j : Nat} (h : j ≤ m) :
    bit (x.concat b) j = bit x j := by
  simp only [bit, Nat.succ_sub h, BitVec.getLsbD_concat_succ]

theorem bit_concat_last {m : Nat} (x : BitVec m) (b : Bool) : bit (x.concat b) (m + 1) = b := by
  simp only [bit, Nat.sub_self, BitVec.getLsbD_concat_zero]

/-- Bit `k + 1` of a permuted value is the input bit that the table's entry `k` (from 0) names. -/
theorem bit_permute {w : Nat} (T : List Nat) (v : BitVec w) {k : Nat} (hk : k < T.length) :
    bit (permute T.length T v) (k + 1) = bit v (T.getD k 0) := by
  induction T using List.reverseRecOn with
  | nil => simp at hk
  | append_singleton T p ih =>
    rw [List.length_append, List.length_singleton] at hk ⊢
    rw [permute_append_singleton]
    by_cases h : k < T.length
    · rw [bit_concat_of_le _ _ h, ih h, List.getD_append _ _ _ _ h]
    · obtain rfl : k = T.length := by omega
      rw [bit_concat_last, List.getD_append_right _ _ _ _ le_rfl, Nat.sub_self, List.getD_cons_zero]

/-- Settles O38, by induction on the table from its last entry. -/
theorem permuteBits : Obligations.PermuteBits := by
  rintro w m T v rfl - j h1 hj
  obtain ⟨k, rfl⟩ := Nat.exists_eq_add_of_le' h1
  exact bit_permute T v hj

/-! ### Rotation -/

theorem bit_rotl28 (x : KeyHalf) {n i : Nat} (hn : n ≤ 27) (h1 : 1 ≤ i) (hi : i ≤ 28) :
    bit (rotl28 x n) i = bit x ((i - 1 + n) % 28 + 1) := by
  simp only [bit, rotl28, BitVec.getLsbD_rotateLeft, Nat.mod_eq_of_lt (show n < 28 by omega),
    show 28 - i < 28 by omega, decide_true, Bool.true_and, Bool.cond_decide]
  split
  case isTrue wraps =>
    congr 1
    omega
  case isFalse stays =>
    congr 1
    omega

theorem bit_rotr28 (x : KeyHalf) {n i : Nat} (hn : n ≤ 27) (h1 : 1 ≤ i) (hi : i ≤ 28) :
    bit (rotr28 x n) i = bit x ((i - 1 + 28 - n) % 28 + 1) := by
  simp only [bit, rotr28, BitVec.getLsbD_rotateRight, Nat.mod_eq_of_lt (show n < 28 by omega),
    show 28 - i < 28 by omega, decide_true, Bool.true_and, Bool.cond_decide]
  split
  case isTrue stays =>
    congr 1
    omega
  case isFalse wraps =>
    congr 1
    omega

theorem rotl28_eq_shift_or {n : Nat} (x : KeyHalf) (hn : n ≤ 27) :
    rotl28 x n = x <<< n ||| x >>> (28 - n) :=
  BitVec.rotateLeft_eq_rotateLeftAux_of_lt (by omega)

@[simp] theorem rotl28_zero (x : KeyHalf) : rotl28 x 0 = x := by
  refine bit_ext fun i h1 hi => ?_
  rw [bit_rotl28 x (Nat.zero_le _) h1 hi]
  congr 1
  omega

@[simp] theorem rotr28_zero (x : KeyHalf) : rotr28 x 0 = x := by
  refine bit_ext fun i h1 hi => ?_
  rw [bit_rotr28 x (Nat.zero_le _) h1 hi]
  congr 1
  omega

/-- Settles O39: each rotation bit by bit, by whether the bit wraps around. -/
theorem rotationBits : Obligations.RotationBits := by
  intro x n hn
  exact ⟨fun i h1 hi => ⟨bit_rotl28 x hn h1 hi, bit_rotr28 x hn h1 hi⟩,
    fun _ => rotl28_eq_shift_or x hn, rotl28_zero x, rotr28_zero x⟩

end Sys2Proof.Machine
end

section
/-! PROOFS. Which steps write which register of the core, and when `done` changes (10_state.md R20 to R25). -/

namespace Sys2Proof.Machine

/-! ### The round index and the registers a ROUND step writes -/

/-- A round that is not the last one is below 15. -/
theorem rnd_lt_of_ne_last {j : RoundIndex} (h : j ≠ 15) : j.toNat < 15 := by bv_omega

@[simp] theorem CoreRegs.round_cd (k : CoreRegs) : k.round.cd = rotate k.cd k.rnd k.mode := by
  rw [CoreRegs.cd, CoreRegs.round_c, CoreRegs.round_d, joinKey_split]

theorem CoreRegs.round_rnd_toNat {k : CoreRegs} (h : k.rnd.toNat < 15) : k.round.rnd.toNat = k.rnd.toNat + 1 := by
  rw [(CoreRegs.round_of_lt h).1]
  bv_omega

/-! ### The core's registers after each kind of step -/

section

variable {s t : State} (h : step s = .next t)
include h

theorem step_core_of_resets (hr : s.ResetsNext) : t.core = s.core.toIdle := by
  rcases step_core_cases h with ⟨-, -, -, e⟩ | ⟨n, -⟩ | ⟨n, -⟩ | ⟨n, -⟩
  · exact e
  all_goals exact absurd hr n

theorem step_core_of_rounds (hr : s.RoundsNext) : t.core = s.core.round := by
  rcases step_core_cases h with ⟨-, n, -⟩ | ⟨-, -, -, e⟩ | ⟨-, n, -⟩ | ⟨-, n, -⟩
  · exact absurd hr n
  · exact e
  all_goals exact absurd hr n

theorem step_core_of_loads (hl : s.LoadsNext) :
    t.core = s.core.load (Mode.ofBit (s.corePorts.cmd.getLsbD 0)) s.corePorts.keyIn s.corePorts.dataIn := by
  rcases step_core_cases h with ⟨-, -, n, -⟩ | ⟨-, -, n, -⟩ | ⟨-, -, -, e⟩ | ⟨-, -, n, -⟩
  · exact absurd hl n
  · exact absurd hl n
  · exact e
  · exact absurd hl n

end

/-- A ROUND step selects the round that `RND` names (R20, R55). -/
theorem State.RoundsNext.select {s : State} (h : s.RoundsNext) : s.select = .op (.round s.core.rnd) := by
  obtain ⟨hu, hrst, hr⟩ := h
  rw [State.select, hu]
  exact State.selectCore_of_running hrst hr

/-! ### The writers of OUT, PHASE, MODE and RND -/

/-- Settles O23, by the kind of the step: below round 15 ROUND keeps `OUT`, and no other kind mentions it. -/
theorem outWriter : Obligations.OutWriter := by
  intro s t h
  refine ⟨fun hn => ?_, fun hr hlast => ?_⟩
  · rcases step_core_cases h with ⟨-, -, -, e⟩ | ⟨-, hr, -, e⟩ | ⟨-, -, -, e⟩ | ⟨-, -, -, e⟩
    · rw [e, CoreRegs.toIdle_out]
    · have hlt : s.core.rnd.toNat < 15 := rnd_lt_of_ne_last fun hlast => hn ⟨hr, hlast⟩
      rw [e, (CoreRegs.round_of_lt hlt).2.2]
    · rw [e, CoreRegs.load_out]
    · rw [e]
  · rw [step_core_of_rounds h hr, (CoreRegs.round_of_last hlast).2.2]

/-- Settles O24: the three writers, each by its own register writes, and what is left is a ROUND step below 15 or a step
that writes nothing. -/
theorem phaseWriters : Obligations.PhaseWriters := by
  intro s t h
  refine ⟨fun hr => ?_, fun hl => ?_, fun hr hlast => ?_, fun hreset hload hn => ?_⟩
  · rw [step_core_of_resets h hr, CoreRegs.toIdle_phase]
  · rw [step_core_of_loads h hl, CoreRegs.load_phase]
  · rw [step_core_of_rounds h hr, (CoreRegs.round_of_last hlast).2.1]
  · rcases step_core_cases h with ⟨hr, -⟩ | ⟨-, hr, -, e⟩ | ⟨-, -, hl, -⟩ | ⟨-, -, -, e⟩
    · exact absurd hr hreset
    · have hlt : s.core.rnd.toNat < 15 := rnd_lt_of_ne_last fun hlast => hn ⟨hr, hlast⟩
      rw [e, (CoreRegs.round_of_lt hlt).2.1]
    · exact absurd hl hload
    · rw [e]

/-- Settles O25: LOAD copies `cmd[0]`, no other kind of step writes `MODE`, and a ROUND step's key and halves are those
`rotate` and `roundStep` give. -/
theorem modeWriter : Obligations.ModeWriter := by
  intro s t h
  refine ⟨fun hl => ?_, fun hn => ?_, fun hr => ?_⟩
  · rw [step_core_of_loads h hl, CoreRegs.load_mode, Mode.ofBit]
  · rcases step_core_cases h with ⟨-, -, -, e⟩ | ⟨-, -, -, e⟩ | ⟨-, -, hl, -⟩ | ⟨-, -, -, e⟩
    · rw [e, CoreRegs.toIdle_mode]
    · rw [e, CoreRegs.round_mode]
    · exact absurd hl hn
    · rw [e]
  · rw [step_core_of_rounds h hr, CoreRegs.round_cd]
    exact ⟨rfl, CoreRegs.round_halves s.core⟩

/-- Settles O26: LOAD and ROUND by their own register writes, and no other kind of step writes `RND`. -/
theorem roundCounter : Obligations.RoundCounter := by
  intro s t h
  refine ⟨State.RoundsNext.select, fun hl => ?_, fun hr hlt => ?_, fun hr hlast => ?_, fun hload hround => ?_⟩
  · rw [step_core_of_loads h hl, CoreRegs.load_rnd]
  · rw [step_core_of_rounds h hr, CoreRegs.round_rnd_toNat hlt]
  · rw [step_core_of_rounds h hr, (CoreRegs.round_of_last hlast).1]
  · rcases step_core_cases h with ⟨-, -, -, e⟩ | ⟨-, hr, -⟩ | ⟨-, -, hl, -⟩ | ⟨-, -, -, e⟩
    · rw [e, CoreRegs.toIdle_rnd]
    · exact absurd hr hround
    · exact absurd hl hload
    · rw [e]

/-! ### The output `done` -/

theorem State.done_eq_true_iff {s : State} : s.done = true ↔ s.core.phase = .done := by
  rw [State.done, decide_eq_true_iff]

theorem State.done_eq_false_iff {s : State} : s.done = false ↔ s.core.phase ≠ .done := by
  rw [State.done, decide_eq_false_iff_not]

/-- Settles O28 from O24: `done` follows `PHASE`, and a block in progress is not done. -/
theorem doneOutput : Obligations.DoneOutput := by
  refine ⟨fun _ => State.done_eq_true_iff, fun s t h => ?_⟩
  obtain ⟨hidle, hrun, hdone, hkeep⟩ := phaseWriters s t h
  simp only [State.done_eq_true_iff, State.done_eq_false_iff]
  refine ⟨hdone, fun hd hload hreset => ?_, fun hl => ?_, fun hr => ?_, fun hd hn => ?_⟩
  · have hn : ¬ s.RoundsNext := by
      rintro ⟨-, -, -, hp⟩
      simp [hd] at hp
    rw [hkeep hreset hload fun hr => hn hr.1, hd]
  · simp [hrun hl]
  · simp [hidle hr]
  · by_cases hreset : s.ResetsNext
    · simp [hidle hreset]
    by_cases hload : s.LoadsNext
    · simp [hrun hload]
    rwa [hkeep hreset hload hn]

end Sys2Proof.Machine
end

section
/-! PROOFS. The bytes of a block in order (20_memory.md R37). -/

namespace Sys2Proof.Machine

/-! ### Bit positions -/

theorem bytesToNat_append_singleton (bs : List Byte) (x : Byte) :
    bytesToNat (bs ++ [x]) = 2 ^ 8 * bytesToNat bs + x.toNat := by
  simp [bytesToNat]

/-- The bits of byte `b` stand above the eight bits of each byte that follows it. -/
theorem testBit_bytesToNat (bs : List Byte) {b j : Nat} (hb : b < bs.length) (hj : j < 8) :
    (bytesToNat bs).testBit (8 * (bs.length - 1 - b) + j) = (bs.getD b 0).getLsbD j := by
  induction bs using List.reverseRecOn with
  | nil => simp at hb
  | append_singleton bs x ih =>
    rw [List.length_append, List.length_singleton] at hb ⊢
    rw [bytesToNat_append_singleton, Nat.testBit_two_pow_mul_add _ x.isLt]
    by_cases h : b < bs.length
    · have hpos : 8 * (bs.length + 1 - 1 - b) + j - 8 = 8 * (bs.length - 1 - b) + j := by omega
      rw [if_neg (by omega), hpos, ih h, List.getD_append _ _ _ _ h]
    · obtain rfl : b = bs.length := by omega
      rw [if_pos (by omega), List.getD_append_right _ _ _ _ le_rfl, Nat.sub_self, List.getD_cons_zero,
        Nat.add_sub_cancel, Nat.sub_self, Nat.mul_zero, Nat.zero_add, BitVec.testBit_toNat]

theorem bit_blockOfBytes {bs : List Byte} (hlen : bs.length = 8) {b i : Nat} (hb : b < 8) (h1 : 1 ≤ i) (hi : i ≤ 8) :
    bit (blockOfBytes bs) (8 * b + i) = bit (bs.getD b 0) i := by
  have hpos : 64 - (8 * b + i) = 8 * (bs.length - 1 - b) + (8 - i) := by omega
  rw [bit, bit, blockOfBytes, BitVec.getLsbD_ofNat, hpos, testBit_bytesToNat bs (by omega) (by omega)]
  simp only [show 8 * (bs.length - 1 - b) + (8 - i) < 64 by omega, decide_true, Bool.true_and]

theorem bit_byteOf (v : Block) {b i : Nat} (hb : b < 8) (h1 : 1 ≤ i) (hi : i ≤ 8) :
    bit (byteOf v b) i = bit v (8 * b + i) := by
  simp only [bit, byteOf, BitVec.getLsbD_extractLsb', show 8 - i < 8 by omega, decide_true, Bool.true_and]
  congr 1
  omega

/-! ### Conversion in both directions -/

theorem byteOf_blockOfBytes {bs : List Byte} (hlen : bs.length = 8) {b : Nat} (hb : b < 8) :
    byteOf (blockOfBytes bs) b = bs.getD b 0 :=
  bit_ext fun i h1 hi => by rw [bit_byteOf _ hb h1 hi, bit_blockOfBytes hlen hb h1 hi]

@[simp] theorem length_bytesOfBlock (v : Block) : (bytesOfBlock v).length = 8 := rfl

theorem bytesOfBlock_eq_map_range (v : Block) : bytesOfBlock v = (List.range 8).map (byteOf v) := rfl

theorem getD_bytesOfBlock (v : Block) {b : Nat} (hb : b < 8) : (bytesOfBlock v).getD b 0 = byteOf v b := by
  simp [bytesOfBlock_eq_map_range, hb]

theorem bytesOfBlock_blockOfBytes {bs : List Byte} (hlen : bs.length = 8) : bytesOfBlock (blockOfBytes bs) = bs := by
  refine List.ext_getElem hlen.symm fun b hb hb' => ?_
  rw [← List.getD_eq_getElem _ 0, ← List.getD_eq_getElem _ 0, getD_bytesOfBlock _ hb, byteOf_blockOfBytes hlen hb]

@[simp] theorem blockOfBytes_bytesOfBlock (v : Block) : blockOfBytes (bytesOfBlock v) = v := by
  refine bit_ext fun k h1 hk => ?_
  obtain ⟨b, i, hb, hi1, hi, rfl⟩ : ∃ b i, b < 8 ∧ 1 ≤ i ∧ i ≤ 8 ∧ k = 8 * b + i :=
    ⟨(k - 1) / 8, (k - 1) % 8 + 1, by omega, by omega, by omega, by omega⟩
  rw [bit_blockOfBytes (length_bytesOfBlock v) hb hi1 hi, getD_bytesOfBlock v hb, bit_byteOf v hb hi1 hi]

/-- Settles O52 bit by bit: a bit of a block is a bit of one of its bytes, whichever of the two is given. -/
theorem byteOrder : Obligations.ByteOrder :=
  ⟨fun _ hlen => ⟨fun _ _ hb h1 hi => bit_blockOfBytes hlen hb h1 hi, bytesOfBlock_blockOfBytes hlen⟩,
    fun v => ⟨length_bytesOfBlock v, blockOfBytes_bytesOfBlock v⟩, by decide⟩

end Sys2Proof.Machine
end

section
/-! PROOFS. Several instances of the core (20_memory.md R48). -/

namespace Sys2Proof.Machine

@[simp] theorem getElem_stepInstances (cfg : Config.Instances) (cores : Vector State cfg.nCores) {i : Nat}
    (hi : i < cfg.nCores) : (stepInstances cfg cores)[i] = step cores[i] :=
  Vector.getElem_map step hi

/-- Settles O51: what an instance answers is a function of its own state alone. -/
theorem instancesIndependent : Obligations.InstancesIndependent := by
  intro cfg cores cores' i hi
  refine ⟨getElem_stepInstances cfg cores hi, fun hsame => ?_⟩
  rw [getElem_stepInstances, getElem_stepInstances, hsame]

end Sys2Proof.Machine
end

section
/-! PROOFS. The control words by their fields: what each format's decoder answers for a word of its own width, and the
number a word of concatenated fields is (30_encoding.md R50, R52 to R54, R58). -/

namespace Sys2Proof

/-! ### A word of its format's width is decoded by that format's decoder -/

theorem CtlWord.wf_toNat (f : Format) {n : Nat} (b : BitVec n) (h : f.width = n) :
    (CtlWord.mk f b.toNat).wf = true := by
  subst h
  exact decide_eq_true b.isLt

@[simp] theorem decode_cmd (b : BitVec 2) : decode ⟨.cmd, b.toNat⟩ = .op (decodeCmd b) := by
  simp [decode, CtlWord.wf_toNat .cmd b rfl]

@[simp] theorem decode_seq (b : BitVec 6) : decode ⟨.seq, b.toNat⟩ = decodeSeq b := by
  simp [decode, CtlWord.wf_toNat .seq b rfl]

@[simp] theorem decode_ksctl (b : BitVec 7) : decode ⟨.ksctl, b.toNat⟩ = .op (decodeKsctl b) := by
  simp [decode, CtlWord.wf_toNat .ksctl b rfl]

@[simp] theorem decode_rpctl (b : BitVec 1) : decode ⟨.rpctl, b.toNat⟩ = .op (decodeRpctl b) := by
  simp [decode, CtlWord.wf_toNat .rpctl b rfl]

/-! ### The number of a word of fields -/

/-- Concatenation weighs its left field by the width of its right one. -/
theorem toNat_append_eq_add {m n : Nat} (x : BitVec m) (y : BitVec n) :
    (x ++ y).toNat = 2 ^ n * x.toNat + y.toNat := by
  rw [BitVec.toNat_append, Nat.shiftLeft_eq, Nat.mul_comm, Nat.two_pow_add_eq_or_of_lt y.isLt]

/-- The number of a KSCTL word, field by field (R53). -/
theorem toNat_ksctlFields (ld st d : Bool) (r : RoundIndex) :
    (BitVec.ofBool ld ++ BitVec.ofBool st ++ BitVec.ofBool d ++ r).toNat =
      64 * ld.toNat + 32 * st.toNat + 16 * d.toNat + r.toNat := by
  simp only [toNat_append_eq_add, BitVec.toNat_ofBool]
  omega

/-! ### KSCTL (R53) -/

/-- What the KSCTL decoder reads from a word of its four fields. -/
theorem decodeKsctl_fields (ld st d : Bool) (r : RoundIndex) :
    decodeKsctl (BitVec.ofBool ld ++ BitVec.ofBool st ++ BitVec.ofBool d ++ r) =
      if ld then .ksLoad st (Mode.ofBit d) r else if st then .ksStep (Mode.ofBit d) r else .ksHold (Mode.ofBit d) r := by
  have hr : (BitVec.ofBool ld ++ BitVec.ofBool st ++ BitVec.ofBool d ++ r).extractLsb' 0 4 = r :=
    BitVec.extractLsb'_append_eq_right
  simp only [decodeKsctl, hr, BitVec.getLsbD_append]
  simp

/-- Settles O4: the number is the word of the four fields, and the decoder reads them back in order of priority. -/
theorem ksctlFields : Obligations.KsctlFields := by
  intro ld st d r
  rw [← toNat_ksctlFields, decode_ksctl, decodeKsctl_fields]
  rfl

end Sys2Proof

namespace Sys2Proof.Machine

/-! ### SEQ (R52) -/

/-- The SEQ word's number: `PHASE` weighs 16 (R52). -/
theorem State.seqWord_toNat (s : State) : s.seqWord.toNat = 16 * s.core.phase.toBits.toNat + s.core.rnd.toNat :=
  toNat_append_eq_add s.core.phase.toBits s.core.rnd

theorem State.decode_seqWord (s : State) :
    decode ⟨.seq, s.seqWord.toNat⟩ = decodeSeq (s.core.phase.toBits ++ s.core.rnd) :=
  decode_seq s.seqWord

/-- Settles O5: the two rows of the step's selection are those of `selectCore`, and the SEQ word of each phase is a
number with that phase's weight and decodes as that phase's pattern. -/
theorem sequencerWord : Obligations.SequencerWord := by
  intro s
  rw [State.decode_seqWord, State.seqWord_toNat]
  refine ⟨fun hp hu hrst hw => ?_, fun hp hu hrst hw => ?_, fun hp => ?_, fun hp => ?_, fun hp => ?_, fun hp => ?_⟩
  · rw [State.select, hu]
    exact State.selectCore_of_ready hrst ⟨hw, hp⟩
  · exact State.RoundsNext.select ⟨hu, hrst, hw, hp⟩
  · rw [hp]
    exact ⟨Nat.zero_add _, decodeSeq_idle _⟩
  · rw [hp]
    exact ⟨rfl, decodeSeq_run _⟩
  · rw [hp]
    exact ⟨rfl, decodeSeq_done _⟩
  · rw [hp]
    exact ⟨rfl, decodeSeq_reserved _⟩

/-! ### No control word is illegal, and nothing traps (R58) -/

/-- The SEQ words `01rrrr` by their numbers. -/
theorem decode_seq_run (r : RoundIndex) : decode ⟨.seq, 16 + r.toNat⟩ = .op (.round r) := by
  have hword : (Phase.run.toBits ++ r).toNat = 16 + r.toNat := toNat_append_eq_add Phase.run.toBits r
  rw [← hword, decode_seq, decodeSeq_run]

/-- Settles O3: the CMD, KSCTL and RPCTL decoders answer an operation for every word of their width, a RUN word decodes
to its round, and there is no fault to raise. -/
theorem noIllegalEncodings : Obligations.NoIllegalEncodings :=
  ⟨fun b => ⟨_, decode_cmd b⟩, fun b => ⟨_, decode_ksctl b⟩, fun b => ⟨_, decode_rpctl b⟩, decode_seq_run,
    fun _ _ => nofun, fun _ => nofun⟩

end Sys2Proof.Machine
end

section
/-! PROOFS. The key register and its rotation half by half, and what each operation of the stand-alone key schedule unit
does (40_key_schedule.md R63 to R69, R74 to R76). -/

namespace Sys2Proof.Machine

/-! ### The key register and its halves -/

@[simp] theorem KeyRegs.hi28_cd (k : KeyRegs) : hi28 k.cd = k.c := hi28_joinKey k.c k.d

@[simp] theorem KeyRegs.lo28_cd (k : KeyRegs) : lo28 k.cd = k.d := lo28_joinKey k.c k.d

@[simp] theorem KeyRegs.ofKey_cd (cd : RoundKey) : (KeyRegs.ofKey cd).cd = cd := joinKey_split cd

@[simp] theorem KeyRegs.ofKey_of_cd (k : KeyRegs) : KeyRegs.ofKey k.cd = k := by
  rw [KeyRegs.ofKey, KeyRegs.hi28_cd, KeyRegs.lo28_cd]

/-! ### PC-1, bit by bit -/

/-- Bit `k + 1` of the permuted key is the master key's bit that entry `k` (from 0) of PC-1 names (R62, R63). -/
theorem bit_derivePermutedKey (key : Block) {k : Nat} (hk : k < 56) :
    bit (derivePermutedKey key) (k + 1) = bit key (tablePC1.getD k 0) :=
  bit_permute tablePC1 key hk

theorem bit_hi28_derivePermutedKey (key : Block) {i : Nat} (h1 : 1 ≤ i) (hi : i ≤ 28) :
    bit (hi28 (derivePermutedKey key)) i = bit key (tablePC1.getD (i - 1) 0) := by
  rw [bit_hi28 _ hi h1, ← bit_derivePermutedKey key (show i - 1 < 56 by omega), Nat.sub_add_cancel h1]

theorem bit_lo28_derivePermutedKey (key : Block) {i : Nat} (h1 : 1 ≤ i) (hi : i ≤ 28) :
    bit (lo28 (derivePermutedKey key)) i = bit key (tablePC1.getD (i + 27) 0) := by
  rw [bit_lo28 _ hi h1, ← bit_derivePermutedKey key (show i + 27 < 56 by omega)]

/-! ### `rotate`, half by half -/

@[simp] theorem hi28_rotate_encrypt (cd : RoundKey) (r : RoundIndex) :
    hi28 (rotate cd r .encrypt) = rotl28 (hi28 cd) (shift r) := hi28_joinKey _ _

@[simp] theorem lo28_rotate_encrypt (cd : RoundKey) (r : RoundIndex) :
    lo28 (rotate cd r .encrypt) = rotl28 (lo28 cd) (shift r) := lo28_joinKey _ _

@[simp] theorem hi28_rotate_decrypt (cd : RoundKey) (r : RoundIndex) :
    hi28 (rotate cd r .decrypt) = rotr28 (hi28 cd) (dshift r) := hi28_joinKey _ _

@[simp] theorem lo28_rotate_decrypt (cd : RoundKey) (r : RoundIndex) :
    lo28 (rotate cd r .decrypt) = rotr28 (lo28 cd) (dshift r) := lo28_joinKey _ _

/-- A forward rotation of the key register rotates each of its halves (R67). -/
theorem KeyRegs.ofKey_rotate_encrypt (k : KeyRegs) (r : RoundIndex) :
    KeyRegs.ofKey (rotate k.cd r .encrypt) = ⟨rotl28 k.c (shift r), rotl28 k.d (shift r)⟩ := by
  simp [KeyRegs.ofKey]

/-- A reverse rotation of the key register rotates each of its halves (R68). -/
theorem KeyRegs.ofKey_rotate_decrypt (k : KeyRegs) (r : RoundIndex) :
    KeyRegs.ofKey (rotate k.cd r .decrypt) = ⟨rotr28 k.c (dshift r), rotr28 k.d (dshift r)⟩ := by
  simp [KeyRegs.ofKey]

@[simp] theorem dshift_zero : dshift 0 = 0 := rfl

/-- The first decryption step does not rotate (R68, R137). -/
@[simp] theorem rotateRev_zero (cd : RoundKey) : rotateRev cd 0 = cd := by
  rw [rotateRev, dshift_zero, rotr28_zero, rotr28_zero, joinKey_split]

@[simp] theorem rotate_zero_decrypt (cd : RoundKey) : rotate cd 0 .decrypt = cd := rotateRev_zero cd

theorem bit_rotl28_shift (x : KeyHalf) (r : RoundIndex) {i : Nat} (h1 : 1 ≤ i) (hi : i ≤ 28) :
    bit (rotl28 x (shift r)) i = bit x ((i - 1 + shift r) % 28 + 1) :=
  bit_rotl28 x ((shift_le r).trans (by decide)) h1 hi

/-- From round 1 on a reverse rotation moves by `SHIFT`, as a forward one does (R66). -/
theorem bit_rotr28_dshift (x : KeyHalf) {r : RoundIndex} (hr : r ≠ 0) {i : Nat} (h1 : 1 ≤ i) (hi : i ≤ 28) :
    bit (rotr28 x (dshift r)) i = bit x ((i - 1 + 28 - shift r) % 28 + 1) := by
  rw [dshift_eq_shift hr]
  exact bit_rotr28 x ((shift_le r).trans (by decide)) h1 hi

/-! ### The unit's outputs and operations -/

@[simp] theorem KeyRegs.outs_cdNext (k : KeyRegs) (dir : Mode) (r : RoundIndex) :
    (k.outs dir r).cdNext = rotate k.cd r dir := rfl

@[simp] theorem KeyRegs.outs_subkey (k : KeyRegs) (dir : Mode) (r : RoundIndex) :
    (k.outs dir r).subkey = compress (rotate k.cd r dir) := rfl

/-- Writing the key register and sampling the outputs (log entry 6) touch different fields. -/
theorem State.setKsu_seeKs (s : State) (k : KeyRegs) (o : KeyOuts) :
    (s.seeKs o).setKsu k = (s.setKsu k).seeKs o := rfl

theorem exec_ksHold (dir : Mode) (r : RoundIndex) (s : State) :
    exec (.ksHold dir r) s = .next (s.seeKs (s.ksu.outs dir r)) := rfl

theorem exec_ksStep (dir : Mode) (r : RoundIndex) (s : State) :
    exec (.ksStep dir r) s =
      .next ((s.seeKs (s.ksu.outs dir r)).setKsu (KeyRegs.ofKey (rotate s.ksu.cd r dir))) := rfl

theorem exec_ksLoad (st : Bool) (dir : Mode) (r : RoundIndex) (s : State) :
    exec (.ksLoad st dir r) s =
      .next ((s.seeKs (s.ksu.outs dir r)).setKsu (KeyRegs.ofKey (derivePermutedKey s.ksPorts.key))) := rfl

/-- Settles O17: the register KS_LOAD writes is PC-1 of the key port, whose bits the table names. -/
theorem ksLoad : Obligations.KsLoad := by
  intro s st dir r
  refine ⟨_, exec_ksLoad st dir r s, State.setKsu_seeKs _ _ _, fun i h1 hi => ?_,
    KeyRegs.outs_cdNext _ _ _, KeyRegs.outs_subkey _ _ _⟩
  exact ⟨bit_hi28_derivePermutedKey _ h1 hi, bit_lo28_derivePermutedKey _ h1 hi⟩

/-- Settles O18: the register KS_STEP writes is the rotated one, whose halves are the old halves, each rotated on its
own by the amount of the direction and the round. -/
theorem ksStep : Obligations.KsStep := by
  intro s r
  constructor
  · refine ⟨_, exec_ksStep .encrypt r s, State.setKsu_seeKs _ _ _, fun i h1 hi => ?_, ?_, ?_⟩
    · rw [State.setKsu_ksu, KeyRegs.ofKey_rotate_encrypt]
      exact ⟨bit_rotl28_shift s.ksu.c r h1 hi, bit_rotl28_shift s.ksu.d r h1 hi⟩
    · rw [State.setKsu_ksu, KeyRegs.ofKey_cd]
    · rw [State.setKsu_ksu, KeyRegs.ofKey_cd, KeyRegs.outs_subkey]
  · refine ⟨_, exec_ksStep .decrypt r s, State.setKsu_seeKs _ _ _, fun hr i h1 hi => ?_, fun hr => ?_, ?_, ?_⟩
    · rw [State.setKsu_ksu, KeyRegs.ofKey_rotate_decrypt]
      exact ⟨bit_rotr28_dshift s.ksu.c hr h1 hi, bit_rotr28_dshift s.ksu.d hr h1 hi⟩
    · rw [hr, State.setKsu_ksu, rotate_zero_decrypt, KeyRegs.ofKey_of_cd]
    · rw [State.setKsu_ksu, KeyRegs.ofKey_cd]
    · rw [State.setKsu_ksu, KeyRegs.ofKey_cd, KeyRegs.outs_subkey]

/-- Settles O19: KS_HOLD only samples the outputs, which are those of the register it leaves as it was. -/
theorem ksHold : Obligations.KsHold := by
  intro s dir r
  exact ⟨_, exec_ksHold dir r s, rfl, State.seeKs_ksu _ _, KeyRegs.outs_cdNext _ _ _, KeyRegs.outs_subkey _ _ _⟩

end Sys2Proof.Machine
end

section
/-! PROOFS. The substitution group by group, and the operations of the stand-alone round processor
(41_feistel_round.md R85 to R87, R90, R91). -/

namespace Sys2Proof.Machine

/-! ### A group's bits, and its row and column -/

/-- Bit `i` of group `g` is bit `6g - 6 + i` of the mixed value (R85). -/
theorem bit_group (x : Subkey) {g i : Nat} (h1 : 1 ≤ g) (hg : g ≤ 8) (hi1 : 1 ≤ i) (hi : i ≤ 6) :
    bit (group x g) i = bit x (6 * g - 6 + i) := by
  simp only [bit, group, BitVec.getLsbD_extractLsb', show 6 - i < 6 by omega, decide_true, Bool.true_and]
  congr 1
  omega

section
variable (x : Subkey) {g : Nat} (h1 : 1 ≤ g) (hg : g ≤ 8)
include h1 hg

/-- The row index of a group reads its outer bits (R86). -/
theorem sboxRow_group :
    sboxRow (group x g) = 2 * (bit x (6 * g - 5)).toNat + (bit x (6 * g)).toNat := by
  rw [sboxRow, bit_group x h1 hg (by decide) (by decide), bit_group x h1 hg (by decide) (by decide),
    show 6 * g - 6 + 1 = 6 * g - 5 by omega, show 6 * g - 6 + 6 = 6 * g by omega]

/-- The column index of a group reads its inner bits (R86). -/
theorem sboxCol_group :
    sboxCol (group x g) =
      8 * (bit x (6 * g - 4)).toNat + 4 * (bit x (6 * g - 3)).toNat + 2 * (bit x (6 * g - 2)).toNat +
        (bit x (6 * g - 1)).toNat := by
  rw [sboxCol, bit_group x h1 hg (by decide) (by decide), bit_group x h1 hg (by decide) (by decide),
    bit_group x h1 hg (by decide) (by decide), bit_group x h1 hg (by decide) (by decide),
    show 6 * g - 6 + 2 = 6 * g - 4 by omega, show 6 * g - 6 + 3 = 6 * g - 3 by omega,
    show 6 * g - 6 + 4 = 6 * g - 2 by omega, show 6 * g - 6 + 5 = 6 * g - 1 by omega]

end

/-! ### The packing of the eight lookups -/

/-- The lookup of group `g` (1 to 8) of the mixed value in S-box `g` (R87). -/
def sboxNibble (x : Subkey) (g : Nat) : BitVec 4 :=
  sboxOut ([sbox1, sbox2, sbox3, sbox4, sbox5, sbox6, sbox7, sbox8].getD (g - 1) []) (group x g)

/-- The nibbles `f 1` to `f (n + 1)` in order, the first one the most significant. -/
def packNibbles (f : Nat → BitVec 4) : (n : Nat) → BitVec (4 * (n + 1))
  | 0 => f 1
  | n + 1 => packNibbles f n ++ f (n + 2)

/-- The substitution packs the eight lookups in order (R87). -/
theorem mixAndSubstitute_eq_packNibbles (e k : Subkey) :
    mixAndSubstitute e k = packNibbles (sboxNibble (e ^^^ k)) 7 := rfl

/-- The last nibble is the right part of the concatenation, and every earlier one stands in its left part. -/
theorem extractLsb'_packNibbles (f : Nat → BitVec 4) {n g : Nat} (h1 : 1 ≤ g) (hg : g ≤ n + 1) :
    (packNibbles f n).extractLsb' (4 * (n + 1) - 4 * g) 4 = f g := by
  induction n with
  | zero =>
    obtain rfl : g = 1 := by omega
    exact BitVec.extractLsb'_eq_self
  | succ n ih =>
    rw [packNibbles]
    by_cases h : g ≤ n + 1
    · refine (BitVec.extractLsb'_append_eq_of_le (by omega)).trans ?_
      rw [show 4 * (n + 1 + 1) - 4 * g - 4 = 4 * (n + 1) - 4 * g by omega, ih h]
    · obtain rfl : g = n + 2 := by omega
      rw [Nat.sub_self]
      exact BitVec.extractLsb'_append_eq_right

theorem nibble_mixAndSubstitute (e k : Subkey) {g : Nat} (h1 : 1 ≤ g) (hg : g ≤ 8) :
    (mixAndSubstitute e k).extractLsb' (32 - 4 * g) 4 = sboxNibble (e ^^^ k) g := by
  rw [mixAndSubstitute_eq_packNibbles]
  exact extractLsb'_packNibbles _ h1 hg

/-- Settles O40: nibble `g` of the packed lookups is the lookup of group `g`, whose row and column read the group's
bits. -/
theorem substitutionNibbles : Obligations.SubstitutionNibbles := by
  intro e k g h1 hg
  rw [nibble_mixAndSubstitute e k h1 hg, sboxNibble, sboxOut, sboxRow_group _ h1 hg, sboxCol_group _ h1 hg]

/-! ### The round processor's operations -/

theorem roundStep_false (l r : Half) (k : Subkey) : roundStep l r k false = rpRound l r k := rfl

theorem roundStep_true (l r : Half) (k : Subkey) : roundStep l r k true = rpLast l r k := rfl

@[simp] theorem RoundPorts.outs_f (p : RoundPorts) (last : Bool) : (p.outs last).f = roundF p.r p.k := rfl

/-- The two half outputs are the round step's pair (R30). -/
theorem RoundPorts.outs_halves (p : RoundPorts) (last : Bool) :
    ((p.outs last).lNext, (p.outs last).rNext) = roundStep p.l p.r p.k last := rfl

theorem exec_rpRound (s : State) : exec .rpRound s = .next (s.seeRp (s.rpPorts.outs false)) := rfl

theorem exec_rpLast (s : State) : exec .rpLast s = .next (s.seeRp (s.rpPorts.outs true)) := rfl

/-- Settles O20: each operation samples the outputs of the ports, which are those of the round step with its own value
of `rp_last`. -/
theorem roundProcessorOps : Obligations.RoundProcessorOps := by
  refine ⟨fun l r k => ⟨rfl, rfl⟩, fun s => ⟨?_, ?_⟩⟩
  · refine ⟨_, exec_rpRound s, rfl, ?_, RoundPorts.outs_f _ _⟩
    rw [State.seeRp_rpSeen, RoundPorts.outs_halves, roundStep_false]
  · refine ⟨_, exec_rpLast s, rfl, ?_, RoundPorts.outs_f _ _⟩
    rw [State.seeRp_rpSeen, RoundPorts.outs_halves, roundStep_true]

end Sys2Proof.Machine
end

section
/-! PROOFS. The core's operations as the block driver's steps: HOLD, LOAD and ROUND, and what a step does while a block
is in progress (42_block_driver.md R100 to R106). -/

namespace Sys2Proof.Machine

/-! ### The output `busy`, and the outputs of each phase -/

theorem State.busy_eq_true_iff {s : State} : s.busy = true ↔ s.core.phase = .run := by
  rw [State.busy, decide_eq_true_iff]

theorem State.busy_eq_false_iff {s : State} : s.busy = false ↔ s.core.phase ≠ .run := by
  rw [State.busy, decide_eq_false_iff_not]

theorem State.Ready.not_busy {s : State} (h : s.Ready) : s.busy = false := by
  rw [State.busy_eq_false_iff]
  rcases h.2 with hp | hp <;> simp [hp]

theorem State.outputs_of_run {s : State} (h : s.core.phase = .run) : s.busy = true ∧ s.done = false :=
  ⟨State.busy_eq_true_iff.mpr h, State.done_eq_false_iff.mpr (by simp [h])⟩

theorem State.outputs_of_done {s : State} (h : s.core.phase = .done) : s.busy = false ∧ s.done = true :=
  ⟨State.busy_eq_false_iff.mpr (by simp [h]), State.done_eq_true_iff.mpr h⟩

/-! ### NOP -/

theorem exec_nop_of_safe {s : State} (h : s.Safe) (m : Bool) : exec (.nop m) s = .next s :=
  State.whenDefined_of_safe h _

/-- Settles O11: a ready state is safe, so NOP answers it as it is. -/
theorem nopHolds : Obligations.NopHolds := by
  intro s m hr
  exact ⟨s, exec_nop_of_safe hr.safe m, rfl, rfl, hr.not_busy⟩

/-! ### ENC and DEC -/

/-- The command that loads a block for a mode (R50, R102, R103). -/
def loadCommand : Mode → Instr
  | .encrypt => .enc
  | .decrypt => .dec

theorem exec_loadCommand (m : Mode) (s : State) : exec (loadCommand m) s = s.command m := by
  cases m <;> rfl

/-- Bit `k + 1` of the permuted block is the block's bit that entry `k` (from 0) of IP names (R95, R98). -/
theorem bit_initialPermute (v : Block) {k : Nat} (hk : k < 64) :
    bit (initialPermute v) (k + 1) = bit v (tableIP.getD k 0) :=
  bit_permute tableIP v hk

theorem bit_hi32_initialPermute (v : Block) {i : Nat} (h1 : 1 ≤ i) (hi : i ≤ 32) :
    bit (hi32 (initialPermute v)) i = bit v (tableIP.getD (i - 1) 0) := by
  rw [bit_hi32 _ hi h1, ← bit_initialPermute v (show i - 1 < 64 by omega), Nat.sub_add_cancel h1]

theorem bit_lo32_initialPermute (v : Block) {i : Nat} (h1 : 1 ≤ i) (hi : i ≤ 32) :
    bit (lo32 (initialPermute v)) i = bit v (tableIP.getD (i + 31) 0) := by
  rw [bit_lo32 _ hi h1, ← bit_initialPermute v (show i + 31 < 64 by omega)]

/-- Settles O12: both commands are the LOAD step when ready, whose registers are the halves of IP and PC-1, and nothing
while running. -/
theorem encDecLoad : Obligations.EncDecLoad := by
  intro m s
  refine ⟨fun hr => ?_, fun hr => (exec_loadCommand m s).trans (State.command_of_running hr m)⟩
  refine ⟨_, (exec_loadCommand m s).trans (State.command_of_ready hr m), rfl, fun i h1 hi => ?_, fun i h1 hi => ?_,
    CoreRegs.load_mode .., CoreRegs.load_rnd .., CoreRegs.load_phase .., CoreRegs.load_out .., hr.1,
    State.outputs_of_run (CoreRegs.load_phase ..)⟩
  · exact ⟨bit_hi32_initialPermute _ h1 hi, bit_lo32_initialPermute _ h1 hi⟩
  · exact ⟨bit_hi28_derivePermutedKey _ h1 hi, bit_lo28_derivePermutedKey _ h1 hi⟩

/-! ### ROUND -/

@[simp] theorem CoreRegs.hi28_cd (k : CoreRegs) : hi28 k.cd = k.c := hi28_joinKey k.c k.d

@[simp] theorem CoreRegs.lo28_cd (k : CoreRegs) : lo28 k.cd = k.d := lo28_joinKey k.c k.d

/-- Below round 15 the halves are those of RP_ROUND (R90, R101). -/
theorem CoreRegs.round_halves_of_lt {k : CoreRegs} (h : k.rnd.toNat < 15) :
    (k.round.l, k.round.r) = rpRound k.l k.r (compress (rotate k.cd k.rnd k.mode)) := by
  have hne : k.rnd ≠ 15 := fun hlast => by simp [hlast] at h
  rw [CoreRegs.round_halves, decide_eq_false hne, roundStep_false]

/-- Round 15 does not swap: the halves are those of RP_LAST (R91, R101). -/
theorem CoreRegs.round_halves_of_last {k : CoreRegs} (h : k.rnd = 15) :
    (k.round.l, k.round.r) = rpLast k.l k.r (compress (rotate k.cd k.rnd k.mode)) := by
  rw [CoreRegs.round_halves, decide_eq_true h, roundStep_true]

/-- Round 0 of a decryption does not rotate the key (R66, R101). -/
theorem CoreRegs.round_key_of_decrypt_zero {k : CoreRegs} (hm : k.mode = .decrypt) (hr : k.rnd = 0) :
    k.round.c = k.c ∧ k.round.d = k.d := by
  rw [CoreRegs.round_c, CoreRegs.round_d, hm, hr, rotate_zero_decrypt]
  exact ⟨k.hi28_cd, k.lo28_cd⟩

/-- Settles O13: the step writes the registers of `CoreRegs.round`, by whether the round is the last one. (The name
`roundStep` is the model's own function.) -/
theorem roundStepWrites : Obligations.RoundStep := by
  intro s hrun
  refine ⟨_, execRound_of_running hrun, rfl, CoreRegs.round_c _, CoreRegs.round_d _, CoreRegs.round_mode _,
    (CoreRegs.round_wasReset _).trans hrun.1, fun hlt => ?_, fun hlast => ?_, CoreRegs.round_key_of_decrypt_zero⟩
  · obtain ⟨-, hphase, hout⟩ := CoreRegs.round_of_lt hlt
    have hrun' : s.core.round.phase = .run := hphase.trans hrun.2
    exact ⟨CoreRegs.round_halves_of_lt hlt, CoreRegs.round_rnd_toNat hlt, hrun', hout, State.outputs_of_run hrun'⟩
  · obtain ⟨hrnd, hphase, hout⟩ := CoreRegs.round_of_last hlast
    exact ⟨CoreRegs.round_halves_of_last hlast, hrnd, hphase, hout, State.outputs_of_done hphase⟩

/-! ### A block in progress -/

/-- A ROUND step completes, whatever else the ports hold (R55, R106). -/
theorem step_of_rounds {s : State} (h : s.RoundsNext) :
    step s = .next (s.setCore s.core.round).advanceInputs := by
  have hexec : exec (.round s.core.rnd) s = .next (s.setCore s.core.round) := execRound_of_running h.2.2
  simp only [step, h.select, hexec]

/-- Settles O14: the commands leave a running state alone, and driving the core's ports with `rst` low leaves it about
to take a ROUND step. -/
theorem commandsDroppedWhileBusy : Obligations.CommandsDroppedWhileBusy := by
  intro s hrun
  refine ⟨exec_nop_of_safe hrun.safe, State.command_of_running hrun .encrypt, State.command_of_running hrun .decrypt,
    fun p hrst => ?_⟩
  have hrounds : (s.drive (.core p)).RoundsNext := ⟨rfl, hrst, hrun⟩
  exact ⟨_, step_of_rounds hrounds, State.advanceInputs_core _⟩

end Sys2Proof.Machine
end

section
/-! PROOFS. Buffers of bytes: padding to whole blocks, and each block on its own (42_block_driver.md R107, R108). -/

namespace Sys2Proof.Machine

/-! ### Padding -/

theorem padCount_eq_mod (n : Nat) : padCount n = (8 - n % 8) % 8 := by
  unfold padCount
  split <;> omega

@[simp] theorem length_pad (buf : List Byte) : (pad buf).length = 8 * ((buf.length + 7) / 8) := by
  rw [pad, List.length_append, List.length_replicate, padCount_eq_mod]
  omega

theorem pad_eq_append (buf : List Byte) : pad buf = buf ++ List.replicate ((8 - buf.length % 8) % 8) 0x30 := by
  rw [pad, padCount_eq_mod, fillerByte]

theorem pad_of_whole_blocks {buf : List Byte} (h : buf.length % 8 = 0) : pad buf = buf := by
  rw [pad, padCount, if_pos h, List.replicate_zero, List.append_nil]

theorem pad_of_partial_block {buf : List Byte} (h : buf.length % 8 ≠ 0) :
    pad buf = buf ++ List.replicate (8 - buf.length % 8) 0x30 := by
  rw [pad, padCount, if_neg h, fillerByte]

/-- Settles O54, by whether the buffer ends at a block's end. -/
theorem paddingRule : Obligations.PaddingRule :=
  fun buf => ⟨pad_of_whole_blocks, pad_of_partial_block, length_pad buf⟩

/-! ### Block after block -/

@[simp] theorem length_mapBlocks (key : Block) (m : Mode) (n : Nat) (bs : List Byte) :
    (mapBlocks key m n bs).length = 8 * n := by
  induction n generalizing bs with
  | zero => rfl
  | succ n ih =>
    rw [mapBlocks, List.length_append, length_bytesOfBlock, ih]
    omega

/-- Output block `k` is the block function of input block `k`, whatever the other blocks hold. -/
theorem block_mapBlocks (key : Block) (m : Mode) {n k : Nat} (hk : k < n) (bs : List Byte) :
    ((mapBlocks key m n bs).drop (8 * k)).take 8 =
      bytesOfBlock (processBlock (blockOfBytes ((bs.drop (8 * k)).take 8)) key m) := by
  induction n generalizing k bs with
  | zero => omega
  | succ n ih =>
    rw [mapBlocks]
    cases k with
    | zero => exact List.take_left' (length_bytesOfBlock _)
    | succ k =>
      rw [Nat.mul_succ, Nat.add_comm, ← List.drop_drop, List.drop_left' (length_bytesOfBlock _),
        ih (Nat.lt_of_succ_lt_succ hk), List.drop_drop]

theorem processBuffer_of_wrong_key {key : List Byte} (h : key.length ≠ 8) (buf : List Byte) (m : Mode) :
    processBuffer buf key m = .invalidInputLength .key := if_pos h

theorem processBuffer_of_key {key : List Byte} (h : key.length = 8) (buf : List Byte) (m : Mode) :
    processBuffer buf key m = .bytes (mapBlocks (blockOfBytes key) m ((buf.length + 7) / 8) (pad buf)) := by
  rw [processBuffer, if_neg (not_not_intro h), length_pad, Nat.mul_div_cancel_left _ (by decide)]

/-- Settles O55: the output is the padded buffer's blocks, one after the other, each mapped on its own. -/
theorem bufferBlocksIndependent : Obligations.BufferBlocksIndependent := by
  intro buf key m
  refine ⟨fun hkey => processBuffer_of_wrong_key hkey buf m, fun hkey => ?_⟩
  refine ⟨_, processBuffer_of_key hkey buf m, pad_eq_append buf, ?_, fun hwhole => ?_, fun n hn => ?_⟩
  · rw [length_mapBlocks, length_pad]
  · rw [length_mapBlocks]
    omega
  · rw [length_mapBlocks] at hn
    exact block_mapBlocks _ m (by omega) _

end Sys2Proof.Machine
end

section
/-! PROOFS. The source's known-answer vector (42_block_driver.md R114; 95_test_vectors.md V1, V3). -/

namespace Sys2Proof.Machine

/-- Settles O49 by evaluating the block function on the vector's two blocks. -/
theorem knownAnswer : Obligations.KnownAnswer := by
  constructor <;> decide +kernel

end Sys2Proof.Machine
end

section
/-! PROOFS. The error condition of the host-side calls (42_block_driver.md R116; 60_exceptions.md R119). -/

namespace Sys2Proof.Machine

/-! ### What the host-side block call answers, by the lengths of its operands -/

theorem processBlockBytes_of_wrong_key {key : List Byte} (hkey : key.length ≠ 8) (block : List Byte) (m : Mode) :
    processBlockBytes block key m = .invalidInputLength .key := if_pos hkey

theorem processBlockBytes_of_wrong_block {block key : List Byte} (hkey : key.length = 8) (hblock : block.length ≠ 8)
    (m : Mode) : processBlockBytes block key m = .invalidInputLength .block := by
  rw [processBlockBytes, if_neg (not_not_intro hkey), if_pos hblock]

theorem processBlockBytes_of_lengths {block key : List Byte} (hkey : key.length = 8) (hblock : block.length = 8)
    (m : Mode) :
    processBlockBytes block key m = .bytes (bytesOfBlock (processBlock (blockOfBytes block) (blockOfBytes key) m)) := by
  rw [processBlockBytes, if_neg (not_not_intro hkey), if_neg (not_not_intro hblock)]

/-- Settles O53, by the length of the key and then, for the block call alone, of the block. -/
theorem wrongLengthsReported : Obligations.WrongLengthsReported := by
  intro block key m
  refine ⟨fun hkey => ⟨?_, ?_⟩, fun hkey hblock => ?_, fun hkey hblock => ?_, fun hkey => ?_⟩
  · exact processBlockBytes_of_wrong_key hkey block m
  · exact processBuffer_of_wrong_key hkey block m
  · exact processBlockBytes_of_wrong_block hkey hblock m
  · exact ⟨_, processBlockBytes_of_lengths hkey hblock m⟩
  · exact ⟨_, processBuffer_of_key hkey block m⟩

end Sys2Proof.Machine
end

section
/-! PROOFS. The RESET step: its selection, its one write, and its repetition (60_exceptions.md R118;
70_reset_and_hazards.md R131). -/

namespace Sys2Proof.Machine

/-- A step with `rst = 1` selects RESET, whatever the phase and the command (R118, R131). -/
theorem State.ResetsNext.select {s : State} (h : s.ResetsNext) : s.select = .op (.reset s.corePorts.cmd) := by
  obtain ⟨hu, hrst⟩ := h
  rw [State.select, hu]
  exact State.selectCore_of_rst hrst

/-- RESET has a meaning in every state. -/
theorem exec_reset (c : BitVec 2) (s : State) : exec (.reset c) s = .next (s.setCore s.core.toIdle) := rfl

theorem State.outputs_of_idle {s : State} (h : s.core.phase = .idle) : s.busy = false ∧ s.done = false :=
  ⟨State.busy_eq_false_iff.mpr (by simp [h]), State.done_eq_false_iff.mpr (by simp [h])⟩

@[simp] theorem CoreRegs.toIdle_toIdle (k : CoreRegs) : k.toIdle.toIdle = k.toIdle := rfl

@[simp] theorem State.setCore_setCore (s : State) (k k' : CoreRegs) : (s.setCore k).setCore k' = s.setCore k' := rfl

/-- A RESET right after a RESET changes nothing, whatever the two commands are. -/
theorem exec_reset_after_reset (c : BitVec 2) (s : State) :
    exec (.reset c) (s.setCore s.core.toIdle) = .next (s.setCore s.core.toIdle) := by
  rw [exec_reset, State.setCore_core, CoreRegs.toIdle_toIdle, State.setCore_setCore]

/-- Settles O15: `rst` is the first thing selection looks at, and RESET's next state is the old one with the registers of
`CoreRegs.toIdle`, which a second RESET leaves as they are. -/
theorem resetWritesPhaseOnly : Obligations.ResetWritesPhaseOnly := by
  intro s
  refine ⟨State.ResetsNext.select, fun c => ⟨_, exec_reset c s, rfl, ?_⟩⟩
  have hidle : (s.setCore s.core.toIdle).core.phase = .idle := CoreRegs.toIdle_phase _
  obtain ⟨hbusy, hdone⟩ := State.outputs_of_idle hidle
  exact ⟨hidle, hbusy, hdone, CoreRegs.toIdle_c _, CoreRegs.toIdle_d _, CoreRegs.toIdle_l _, CoreRegs.toIdle_r _,
    CoreRegs.toIdle_rnd _, CoreRegs.toIdle_mode _, CoreRegs.toIdle_out _, CoreRegs.toIdle_out _,
    fun c' => exec_reset_after_reset c' s⟩

end Sys2Proof.Machine
end

section
/-! PROOFS. Decode and encode agree in both directions, and a word placed on its port is what the next step selects
(30_encoding.md R49 to R55, R60; log entry 7). -/

namespace Sys2Proof

/-! ### A word that decodes fits its format -/

theorem wf_of_decode {w : CtlWord} {i : Instr} (h : decode w = .op i) : w.wf = true := by
  by_contra hw
  simp [decode, hw] at h

/-- A word that decodes is the number of a bit vector of its format's width. -/
theorem exists_toNat_of_decode {f : Format} {n k : Nat} {i : Instr} (hk : f.width = k) (h : decode ⟨f, n⟩ = .op i) :
    ∃ b : BitVec k, n = b.toNat := by
  subst hk
  have hlt : n < 2 ^ f.width := of_decide_eq_true (wf_of_decode h)
  exact ⟨BitVec.ofNat f.width n, by rw [BitVec.toNat_ofNat, Nat.mod_eq_of_lt hlt]⟩

@[simp] theorem decode_script (b : BitVec 3) : decode ⟨.script, b.toNat⟩ = .op (decodeScript b) := by
  simp [decode, CtlWord.wf_toNat .script b rfl]

/-- Each format's exact width is the width of no other format. -/
theorem tableWord_of_width (w : CtlWord) : tableWord w.fmt.width w.bits = some w := by
  obtain ⟨f, n⟩ := w
  cases f <;> rfl

/-- A bare table word of a format's exact width is read under that format (log entry 7). -/
theorem decodeTableWord_of_decode {w : CtlWord} {i : Instr} (h : decode w = .op i) :
    decodeTableWord w.fmt.width w.bits = some i := by
  simp [decodeTableWord, tableWord_of_width, h]

/-! ### A word is made of its fields -/

theorem exists_seqFields (b : BitVec 6) : ∃ (p : Machine.Phase) (r : RoundIndex), b = p.toBits ++ r := by
  have hcode : ∀ c : BitVec 2, (Machine.Phase.ofBits c).toBits = c := by decide
  refine ⟨.ofBits (b.extractLsb' 4 2), b.extractLsb' 0 4, ?_⟩
  rw [hcode]
  exact (BitVec.extractLsb'_append_extractLsb' (w := 2) (len := 4)).symm

theorem exists_ofBool (b : BitVec 1) : ∃ x : Bool, b = BitVec.ofBool x := by
  rcases BitVec.eq_zero_or_eq_one b with rfl | rfl
  · exact ⟨false, rfl⟩
  · exact ⟨true, rfl⟩

theorem exists_scriptFields (b : BitVec 3) : ∃ (rst : Bool) (c : BitVec 2), b = BitVec.ofBool rst ++ c := by
  obtain ⟨rst, hrst⟩ := exists_ofBool (b.extractLsb' 2 1)
  refine ⟨rst, b.extractLsb' 0 2, ?_⟩
  rw [← hrst]
  exact (BitVec.extractLsb'_append_extractLsb' (w := 1) (len := 2)).symm

/-- A KSCTL word is the concatenation of the fields its decoder reads (R53). -/
theorem ksctlWord_of_fields (b : BitVec 7) :
    BitVec.ofBool (b.getLsbD 6) ++ BitVec.ofBool (b.getLsbD 5) ++ BitVec.ofBool (b.getLsbD 4) ++ b.extractLsb' 0 4 =
      b := by
  have hhigh : ∀ x : BitVec 3,
      BitVec.ofBool (x.getLsbD 2) ++ BitVec.ofBool (x.getLsbD 1) ++ BitVec.ofBool (x.getLsbD 0) = x := by decide
  have h := hhigh (b.extractLsb' 4 3)
  simp only [BitVec.getLsbD_extractLsb', Nat.reduceLT, decide_true, Bool.true_and, Nat.reduceAdd] at h
  rw [h]
  exact BitVec.extractLsb'_append_extractLsb' (w := 3) (len := 4)

/-! ### What the decoders answer, and the number each instruction has -/

theorem decodeScript_no_rst (c : BitVec 2) : decodeScript (BitVec.ofBool false ++ c) = decodeCmd c := by
  revert c; decide

theorem toNat_scriptFields (rst : Bool) (c : BitVec 2) :
    (BitVec.ofBool rst ++ c).toNat = 4 * rst.toNat + c.toNat := by
  rw [toNat_append_eq_add, BitVec.toNat_ofBool]
  rfl

@[simp] theorem Mode.ofBit_toBit (m : Mode) : Mode.ofBit m.toBit = m := by cases m <;> rfl

@[simp] theorem Mode.toBit_ofBit (b : Bool) : (Mode.ofBit b).toBit = b := by cases b <;> rfl

/-- The command encoders: a decoded CMD word encodes to itself. -/
theorem encode_decodeCmd (c : BitVec 2) : encode (decodeCmd c) = ⟨.cmd, c.toNat⟩ := by
  revert c; decide

theorem encode_decodeRpctl (b : BitVec 1) : encode (decodeRpctl b) = ⟨.rpctl, b.toNat⟩ := by
  revert b; decide

theorem encode_reset (c : BitVec 2) : encode (.reset c) = ⟨.script, (BitVec.ofBool true ++ c).toNat⟩ := by
  rw [toNat_scriptFields]
  rfl

theorem encode_round (r : RoundIndex) : encode (.round r) = ⟨.seq, (Machine.Phase.run.toBits ++ r).toNat⟩ := by
  rw [toNat_append_eq_add]
  rfl

theorem encode_ksLoad (st : Bool) (dir : Mode) (r : RoundIndex) : encode (.ksLoad st dir r) =
    ⟨.ksctl, (BitVec.ofBool true ++ BitVec.ofBool st ++ BitVec.ofBool dir.toBit ++ r).toNat⟩ := by
  rw [toNat_ksctlFields]
  rfl

/-- KS_STEP is the KSCTL word with `ks_load` low and `ks_step` high. -/
theorem encode_ksStep (dir : Mode) (r : RoundIndex) : encode (.ksStep dir r) =
    ⟨.ksctl, (BitVec.ofBool false ++ BitVec.ofBool true ++ BitVec.ofBool dir.toBit ++ r).toNat⟩ := by
  rw [toNat_ksctlFields]
  rfl

/-- KS_HOLD is the KSCTL word with `ks_load` and `ks_step` low. -/
theorem encode_ksHold (dir : Mode) (r : RoundIndex) : encode (.ksHold dir r) =
    ⟨.ksctl, (BitVec.ofBool false ++ BitVec.ofBool false ++ BitVec.ofBool dir.toBit ++ r).toNat⟩ := by
  rw [toNat_ksctlFields]
  rfl

theorem encode_decodeKsctl (b : BitVec 7) : encode (decodeKsctl b) = ⟨.ksctl, b.toNat⟩ := by
  conv_rhs => rw [← ksctlWord_of_fields b]
  unfold decodeKsctl
  split
  next hld => rw [encode_ksLoad, Mode.toBit_ofBit, hld]
  next hld =>
    rw [Bool.eq_false_iff.mpr hld]
    split
    next hst => rw [encode_ksStep, Mode.toBit_ofBit, hst]
    next hst => rw [encode_ksHold, Mode.toBit_ofBit, Bool.eq_false_iff.mpr hst]

theorem decodeSeq_eq_op {b : BitVec 6} {i : Instr} (h : decodeSeq b = .op i) :
    ∃ r, b = Machine.Phase.run.toBits ++ r ∧ i = .round r := by
  obtain ⟨p, r, rfl⟩ := exists_seqFields b
  cases p with
  | idle => rw [Machine.decodeSeq_idle] at h; cases h
  | run => rw [Machine.decodeSeq_run] at h; cases h; exact ⟨r, rfl, rfl⟩
  | done => rw [Machine.decodeSeq_done] at h; cases h
  | reserved => rw [Machine.decodeSeq_reserved] at h; cases h

/-- Every word that decodes, by its format: its fields and the operation they select. -/
theorem decode_eq_op {w : CtlWord} {i : Instr} (h : decode w = .op i) :
    (∃ c : BitVec 2, w = ⟨.cmd, c.toNat⟩ ∧ i = decodeCmd c) ∨
    (∃ r : RoundIndex, w = ⟨.seq, (Machine.Phase.run.toBits ++ r).toNat⟩ ∧ i = .round r) ∨
    (∃ c : BitVec 2, w = ⟨.script, (BitVec.ofBool true ++ c).toNat⟩ ∧ i = .reset c) ∨
    (∃ c : BitVec 2, w = ⟨.script, (BitVec.ofBool false ++ c).toNat⟩ ∧ i = decodeCmd c) ∨
    (∃ b : BitVec 7, w = ⟨.ksctl, b.toNat⟩ ∧ i = decodeKsctl b) ∨
    (∃ b : BitVec 1, w = ⟨.rpctl, b.toNat⟩ ∧ i = decodeRpctl b) := by
  obtain ⟨f, n⟩ := w
  cases f with
  | cmd =>
    obtain ⟨c, rfl⟩ := exists_toNat_of_decode (k := 2) rfl h
    rw [decode_cmd] at h
    cases h
    exact .inl ⟨c, rfl, rfl⟩
  | seq =>
    obtain ⟨b, rfl⟩ := exists_toNat_of_decode (k := 6) rfl h
    rw [decode_seq] at h
    obtain ⟨r, rfl, rfl⟩ := decodeSeq_eq_op h
    exact .inr (.inl ⟨r, rfl, rfl⟩)
  | script =>
    obtain ⟨b, rfl⟩ := exists_toNat_of_decode (k := 3) rfl h
    obtain ⟨rst, c, rfl⟩ := exists_scriptFields b
    rw [decode_script] at h
    cases rst with
    | true =>
      rw [Machine.decodeScript_rst] at h
      cases h
      exact .inr (.inr (.inl ⟨c, rfl, rfl⟩))
    | false =>
      rw [decodeScript_no_rst] at h
      cases h
      exact .inr (.inr (.inr (.inl ⟨c, rfl, rfl⟩)))
  | ksctl =>
    obtain ⟨b, rfl⟩ := exists_toNat_of_decode (k := 7) rfl h
    rw [decode_ksctl] at h
    cases h
    exact .inr (.inr (.inr (.inr (.inl ⟨b, rfl, rfl⟩))))
  | rpctl =>
    obtain ⟨b, rfl⟩ := exists_toNat_of_decode (k := 1) rfl h
    rw [decode_rpctl] at h
    cases h
    exact .inr (.inr (.inr (.inr (.inr ⟨b, rfl, rfl⟩))))

/-! ### The statements about decode and encode -/

/-- Every instruction's word decodes to it, by the fields of its word. -/
theorem decode_encode (i : Instr) : decode (encode i) = .op i := by
  cases i with
  | nop m => revert m; decide
  | enc => decide
  | dec => decide
  | round r => rw [encode_round, decode_seq, Machine.decodeSeq_run]
  | reset c => rw [encode_reset, decode_script, Machine.decodeScript_rst]
  | ksHold dir r => simp only [encode_ksHold, decode_ksctl, decodeKsctl_fields, Mode.ofBit_toBit]; rfl
  | ksStep dir r => simp only [encode_ksStep, decode_ksctl, decodeKsctl_fields, Mode.ofBit_toBit]; rfl
  | ksLoad st dir r => simp only [encode_ksLoad, decode_ksctl, decodeKsctl_fields, Mode.ofBit_toBit]; rfl
  | rpRound => decide
  | rpLast => decide

/-- Settles O1: the word decodes to its instruction, so it fits its format, and a bare table word of the format's width
is that word. -/
theorem decodeOfEncode : Obligations.DecodeOfEncode :=
  fun i => ⟨wf_of_decode (decode_encode i), decode_encode i, decodeTableWord_of_decode (decode_encode i)⟩

/-- Settles O2, by the format of the word: its number is that of its fields, and `rst` is the bit of weight 4 of a
script line. -/
theorem encodeOfDecode : Obligations.EncodeOfDecode := by
  intro w i h
  rcases decode_eq_op h with
    ⟨c, rfl, rfl⟩ | ⟨r, rfl, rfl⟩ | ⟨c, rfl, rfl⟩ | ⟨c, rfl, rfl⟩ | ⟨b, rfl, rfl⟩ | ⟨b, rfl, rfl⟩
  · exact ⟨fun _ => encode_decodeCmd c, nofun, nofun⟩
  · exact ⟨fun _ => encode_round r, nofun, nofun⟩
  · have hnum := toNat_scriptFields true c
    refine ⟨fun hne => absurd rfl hne, fun _ _ => encode_reset c,
      fun _ (hlt : (BitVec.ofBool true ++ c).toNat < 4) => ?_⟩
    rw [hnum, Bool.toNat_true] at hlt
    omega
  · have hnum : (BitVec.ofBool false ++ c).toNat = c.toNat := (toNat_scriptFields false c).trans (Nat.zero_add _)
    refine ⟨fun hne => absurd rfl hne, fun _ (hge : 4 ≤ (BitVec.ofBool false ++ c).toNat) => ?_, fun _ _ => ?_⟩
    · rw [hnum] at hge
      exact absurd c.isLt (Nat.not_lt.mpr hge)
    · rw [hnum]
      exact encode_decodeCmd c
  · exact ⟨fun _ => encode_decodeKsctl b, nofun, nofun⟩
  · exact ⟨fun _ => encode_decodeRpctl b, nofun, nofun⟩

/-- Settles O6 by evaluating the decoder on the twelve words. -/
theorem sampleWordsDecode : Obligations.SampleWordsDecode := by
  unfold Obligations.SampleWordsDecode
  decide

end Sys2Proof
end

section
/-! PROOFS. What a step selects and what it then does, row by row of the decode tables (30_encoding.md R53 to R55;
60_exceptions.md R118), and where the core's operations stop (R57, R132). -/

namespace Sys2Proof.Machine

/-! ### From the selection to the step -/

theorem step_of_select {s t : State} {i : Instr} (hi : s.select = .op i) (he : exec i s = .next t) :
    step s = .next t.advanceInputs := by
  simp only [step, hi, he]

theorem step_of_refuse {s : State} {r : Refusal} (h : s.select = .refuse r) : step s = .refused r := by
  simp only [step, h]

theorem State.select_of_core {s : State} (h : s.unit = .core) : s.select = s.selectCore := by
  rw [State.select, h]

/-! ### The stand-alone units -/

theorem State.select_of_ksu {s : State} (h : s.unit = .ksu) :
    s.select = .op (if s.ksPorts.load then .ksLoad s.ksPorts.step s.ksPorts.dir s.ksPorts.rnd
      else if s.ksPorts.step then .ksStep s.ksPorts.dir s.ksPorts.rnd
      else .ksHold s.ksPorts.dir s.ksPorts.rnd) := by
  rw [State.select, h]
  simp only [State.ksctlWord, decodeKsctl_fields, Mode.ofBit_toBit]

theorem decodeRpctl_ofBool (last : Bool) :
    decodeRpctl (BitVec.ofBool last) = if last then .rpLast else .rpRound := by
  cases last <;> rfl

theorem State.select_of_rpu {s : State} (h : s.unit = .rpu) :
    s.select = .op (if s.rpPorts.last then .rpLast else .rpRound) := by
  rw [State.select, h]
  simp only [State.rpctlWord, decodeRpctl_ofBool]

/-- Settles O10: the ports' control words decode by their fields. -/
theorem standaloneSelection : Obligations.StandaloneSelection :=
  fun _ => ⟨State.select_of_ksu, State.select_of_rpu⟩

/-- The key register after a step of the key schedule unit: load wins over step (R53, R74 to R76). -/
def State.ksuNext (s : State) : KeyRegs :=
  if s.ksPorts.load then KeyRegs.ofKey (derivePermutedKey s.ksPorts.key)
  else if s.ksPorts.step then KeyRegs.ofKey (rotate s.ksu.cd s.ksPorts.rnd s.ksPorts.dir)
  else s.ksu

/-- A step of the key schedule unit samples its outputs and writes its own register. -/
theorem step_of_ksu {s : State} (h : s.unit = .ksu) :
    step s = .next ((s.seeKs s.ksOuts).setKsu s.ksuNext).advanceInputs := by
  have hsel := State.select_of_ksu h
  unfold State.ksuNext
  split at hsel
  next hload =>
    rw [if_pos hload]
    exact step_of_select hsel (exec_ksLoad ..)
  next hload =>
    rw [if_neg hload]
    split at hsel
    next hstep =>
      rw [if_pos hstep]
      exact step_of_select hsel (exec_ksStep ..)
    next hstep =>
      rw [if_neg hstep]
      exact step_of_select hsel (exec_ksHold ..)

/-- A step of the round processor samples its outputs. -/
theorem step_of_rpu {s : State} (h : s.unit = .rpu) : step s = .next (s.seeRp s.rpOuts).advanceInputs := by
  have hsel := State.select_of_rpu h
  split at hsel
  next hlast =>
    rw [State.rpOuts, hlast]
    exact step_of_select hsel (exec_rpLast s)
  next hlast =>
    rw [State.rpOuts, Bool.eq_false_iff.mpr hlast]
    exact step_of_select hsel (exec_rpRound s)

/-- Settles O21: the step's sample is of the outputs, and the outputs are `rotate`, `compress`, `f` and the round step
of the ports. -/
theorem standaloneOutputs : Obligations.StandaloneOutputs := by
  intro s
  constructor
  · intro h
    exact ⟨_, step_of_ksu h, by simp, by simp, KeyRegs.outs_cdNext .., KeyRegs.outs_subkey ..⟩
  · intro h
    refine ⟨_, step_of_rpu h, by simp, by simp, RoundPorts.outs_f .., ?_⟩
    rw [State.rpOuts, RoundPorts.outs_halves]
    cases s.rpPorts.last
    · exact roundStep_false ..
    · exact roundStep_true ..

/-! ### The core, row by row of its decode table -/

theorem step_of_resets {s : State} (h : s.ResetsNext) : step s = .next (s.setCore s.core.toIdle).advanceInputs :=
  step_of_select h.select (exec_reset _ s)

/-- The command LOAD is performed under (R50, R102, R103). -/
theorem decodeCmd_load {c : BitVec 2} (h : c.getLsbD 1 = true) :
    decodeCmd c = loadCommand (Mode.ofBit (c.getLsbD 0)) := by
  cases h0 : c.getLsbD 0
  · exact decodeCmd_enc h h0
  · exact decodeCmd_dec h h0

theorem step_of_loads {s : State} (h : s.LoadsNext) :
    step s = .next (s.setCore (s.core.load (Mode.ofBit (s.corePorts.cmd.getLsbD 0)) s.corePorts.keyIn
      s.corePorts.dataIn)).advanceInputs := by
  obtain ⟨hu, hrst, hstart, hr⟩ := h
  have hsel : s.select = .op (loadCommand (Mode.ofBit (s.corePorts.cmd.getLsbD 0))) := by
    rw [State.select_of_core hu, State.selectCore_of_ready hrst hr, decodeCmd_load hstart]
  exact step_of_select hsel ((exec_loadCommand _ s).trans (State.command_of_ready hr _))

/-- The next step is a HOLD step: the core is clocked out of reset, in IDLE or DONE, with `start` low (R55, R105). -/
abbrev State.HoldsNext (s : State) : Prop :=
  s.unit = .core ∧ s.corePorts.rst = false ∧ s.corePorts.cmd.getLsbD 1 = false ∧ s.Ready

theorem step_of_holds {s : State} (h : s.HoldsNext) : step s = .next s.advanceInputs := by
  obtain ⟨hu, hrst, hstart, hr⟩ := h
  have hsel : s.select = .op (.nop (s.corePorts.cmd.getLsbD 0)) := by
    rw [State.select_of_core hu, State.selectCore_of_ready hrst hr, decodeCmd_nop hstart]
  exact step_of_select hsel (exec_nop_of_safe hr.safe _)

theorem State.select_of_not_reset {s : State} (hu : s.unit = .core) (hrst : s.corePorts.rst = false)
    (hw : s.core.wasReset = false) : s.select = .refuse .beforeFirstReset := by
  rw [State.select_of_core hu, State.selectCore_of_not_reset hrst hw]

theorem State.select_of_reserved {s : State} (hu : s.unit = .core) (hrst : s.corePorts.rst = false)
    (hw : s.core.wasReset = true) (hp : s.core.phase = .reserved) : s.select = .refuse .reservedPhase := by
  rw [State.select_of_core hu, State.selectCore_of_reserved hrst hw hp]

/-- Every step of the core is one row of its decode table (R55), or is refused (R57, R132). -/
theorem State.core_rows {s : State} (hu : s.unit = .core) :
    s.ResetsNext ∨ s.RoundsNext ∨ s.HoldsNext ∨ s.LoadsNext ∨
    (s.corePorts.rst = false ∧ s.core.wasReset = false) ∨
    (s.corePorts.rst = false ∧ s.core.wasReset = true ∧ s.core.phase = .reserved) := by
  cases hrst : s.corePorts.rst with
  | true => exact .inl ⟨hu, hrst⟩
  | false =>
    right
    cases hw : s.core.wasReset with
    | false => exact .inr (.inr (.inr (.inl ⟨rfl, rfl⟩)))
    | true =>
      by_cases hp : s.core.phase = .reserved
      · exact .inr (.inr (.inr (.inr ⟨rfl, rfl, hp⟩)))
      rcases State.Safe.ready_or_running ⟨hw, hp⟩ with hr | hr
      · cases hstart : s.corePorts.cmd.getLsbD 1 with
        | false => exact .inr (.inl ⟨hu, hrst, hstart, hr⟩)
        | true => exact .inr (.inr (.inl ⟨hu, hrst, hstart, hr⟩))
      · exact .inl ⟨hu, hrst, hr⟩

/-- Settles O9, row by row. -/
theorem stepDecodeTable : Obligations.StepDecodeTable := by
  intro s hu
  refine ⟨fun hrst => step_of_resets ⟨hu, hrst⟩, fun hrst hw => ⟨fun hp => step_of_rounds ⟨hu, hrst, hw, hp⟩,
    fun hp => ⟨fun hstart => step_of_holds ⟨hu, hrst, hstart, hw, hp⟩, fun hcmd => ?_, fun hcmd => ?_⟩,
    fun hp => step_of_refuse (State.select_of_reserved hu hrst hw hp)⟩⟩
  all_goals
    have hload := step_of_loads (s := s) ⟨hu, hrst, by rw [hcmd]; rfl, hw, hp⟩
    rw [hcmd] at hload
    exact hload

/-- A step of the core writes core registers, or its selection refuses and the state is not safe. -/
theorem step_of_core {s : State} (hu : s.unit = .core) :
    (∃ k, step s = .next (s.setCore k).advanceInputs) ∨ ((∃ r, s.select = .refuse r) ∧ ¬ s.Safe) := by
  rcases State.core_rows hu with hr | hr | hr | hr | ⟨hrst, hw⟩ | ⟨hrst, hw, hp⟩
  · exact .inl ⟨_, step_of_resets hr⟩
  · exact .inl ⟨_, step_of_rounds hr⟩
  · exact .inl ⟨s.core, step_of_holds hr⟩
  · exact .inl ⟨_, step_of_loads hr⟩
  · exact .inr ⟨⟨_, State.select_of_not_reset hu hrst hw⟩, fun hs => absurd (hs.1.symm.trans hw) (by decide)⟩
  · exact .inr ⟨⟨_, State.select_of_reserved hu hrst hw hp⟩, fun hs => hs.2 hp⟩

/-- A step of any unit completes, or its selection refuses and the state is not safe. -/
theorem step_next_or_refuse (s : State) :
    (∃ t, step s = .next t) ∨ ((∃ r, s.select = .refuse r) ∧ ¬ s.Safe) := by
  cases hu : s.unit with
  | core => exact (step_of_core hu).imp_left fun ⟨_, hk⟩ => ⟨_, hk⟩
  | ksu => exact .inl ⟨_, step_of_ksu hu⟩
  | rpu => exact .inl ⟨_, step_of_rpu hu⟩

/-- What a step selects completes. -/
theorem exec_of_select {s : State} {i : Instr} (h : s.select = .op i) : ∃ t, exec i s = .next t := by
  rcases step_next_or_refuse s with ⟨t, ht⟩ | ⟨⟨r, hr⟩, -⟩
  · obtain ⟨i', u, hi', hu, -⟩ := step_next ht
    rw [h] at hi'
    cases hi'
    exact ⟨u, hu⟩
  · rw [h] at hr
    cases hr

theorem Instr.wf_eq_true (i : Instr) : i.wf = true := by cases i <;> rfl

/-- Settles O7: the selected operation completes, and the pending drives arrive oldest first. -/
theorem stepRunsSelected : Obligations.StepRunsSelected := by
  intro s
  refine ⟨fun i hi => ⟨Instr.wf_eq_true i, ?_⟩, fun _ => step_of_refuse, State.advanceInputs_of_nil,
    fun _ _ => State.advanceInputs_of_cons⟩
  obtain ⟨t, ht⟩ := exec_of_select hi
  exact ⟨t, ht, step_of_select hi ht⟩

/-! ### A placed word -/

/-- Placing a command leaves the core ready for it. -/
theorem State.placeCmd_ready (s : State) (c : BitVec 2) : (s.placeCmd c).Ready := by
  refine ⟨rfl, ?_⟩
  cases hp : s.core.phase <;> simp [State.placeCmd, hp]

theorem State.select_placeCmd (s : State) (c : BitVec 2) : (s.placeCmd c).select = .op (decodeCmd c) :=
  State.selectCore_of_ready rfl (State.placeCmd_ready s c)

/-- Placing a SEQ word of RUN makes the core run the word's round. -/
theorem State.select_place_seq (s : State) (r : RoundIndex) :
    (s.place ⟨.seq, (Phase.run.toBits ++ r).toNat⟩).select = .op (.round r) := by
  have hrnd : (Phase.run.toBits ++ r).extractLsb' 0 4 = r := BitVec.extractLsb'_append_eq_right
  have hphase : Phase.ofBits ((Phase.run.toBits ++ r).extractLsb' 4 2) = .run :=
    congrArg Phase.ofBits BitVec.extractLsb'_append_eq_left
  have hplace : s.place ⟨.seq, (Phase.run.toBits ++ r).toNat⟩ =
      { s with
        unit := .core
        corePorts := { s.corePorts with rst := false }
        core := { s.core with phase := .run, rnd := r, wasReset := true } } := by
    simp only [State.place, BitVec.ofNat_toNat, BitVec.setWidth_eq, hrnd, hphase]
  rw [hplace]
  exact State.selectCore_of_running rfl ⟨rfl, rfl⟩

/-- Placing a script line drives `rst` and the command where `rst` is high, and else the command alone. -/
theorem State.place_script (s : State) (rst : Bool) (c : BitVec 2) :
    s.place ⟨.script, (BitVec.ofBool rst ++ c).toNat⟩ =
      if rst then { s with unit := .core, corePorts := { s.corePorts with rst := true, cmd := c } }
      else s.placeCmd c := by
  have hcmd : (BitVec.ofBool rst ++ c).extractLsb' 0 2 = c := BitVec.extractLsb'_append_eq_right
  have hrst : (BitVec.ofBool rst ++ c).getLsbD 2 = rst := by
    rw [BitVec.getLsbD_append]
    simp
  simp only [State.place, BitVec.ofNat_toNat, BitVec.setWidth_eq, hcmd, hrst]

/-- Placing a KSCTL word puts that word on the key schedule unit's ports. -/
theorem State.ksctlWord_place (s : State) (b : BitVec 7) : (s.place ⟨.ksctl, b.toNat⟩).ksctlWord = b := by
  simp only [State.place, State.ksctlWord, BitVec.ofNat_toNat, BitVec.setWidth_eq, Mode.toBit_ofBit]
  exact ksctlWord_of_fields b

/-- Placing an RPCTL word puts that word on the round processor's port. -/
theorem State.rpctlWord_place (s : State) (b : BitVec 1) : (s.place ⟨.rpctl, b.toNat⟩).rpctlWord = b := by
  obtain ⟨x, rfl⟩ := exists_ofBool b
  cases x <;> rfl

/-- Settles O8, by the format of the word: its fields are where the unit's selection reads them. -/
theorem placedWordIsSelected : Obligations.PlacedWordIsSelected := by
  intro s w i h
  rcases decode_eq_op h with
    ⟨c, rfl, rfl⟩ | ⟨r, rfl, rfl⟩ | ⟨c, rfl, rfl⟩ | ⟨c, rfl, rfl⟩ | ⟨b, rfl, rfl⟩ | ⟨b, rfl, rfl⟩
  · have hplace : s.place ⟨.cmd, c.toNat⟩ = s.placeCmd c := by simp [State.place]
    rw [hplace, State.select_placeCmd]
  · exact State.select_place_seq s r
  · rw [State.place_script, if_pos rfl]
    exact State.ResetsNext.select ⟨rfl, rfl⟩
  · rw [State.place_script, if_neg (by decide), State.select_placeCmd]
  · exact congrArg (fun word => Selected.op (decodeKsctl word)) (State.ksctlWord_place s b)
  · exact congrArg (fun word => Selected.op (decodeRpctl word)) (State.rpctlWord_place s b)

/-! ### Where the core's operations stop -/

theorem State.whenDefined_of_not_reset {s : State} (h : s.core.wasReset = false)
    (o : Host.Outcome State Fault Refusal) : s.whenDefined o = .refused .beforeFirstReset := by
  rw [State.whenDefined, if_neg (by simp [h])]

theorem State.whenDefined_of_reserved {s : State} (h : s.core.wasReset = true) (hp : s.core.phase = .reserved)
    (o : Host.Outcome State Fault Refusal) : s.whenDefined o = .refused .reservedPhase := by
  rw [State.whenDefined, if_pos h, hp]

/-- Settles O16: the four operations ask `whenDefined` first, the selection of a step asks the same, and ROUND then
compares its SEQ word. -/
theorem refusedStates : Obligations.RefusedStates := by
  intro s
  refine ⟨fun hw => ?_, fun hw hp => ?_, fun hs r hne => ?_⟩
  · have hrefuse := State.whenDefined_of_not_reset hw
    exact ⟨fun _ => hrefuse _, hrefuse _, hrefuse _, fun _ => hrefuse _,
      fun hu hrst => step_of_refuse (State.select_of_not_reset hu hrst hw)⟩
  · have hrefuse := State.whenDefined_of_reserved hw hp
    exact ⟨fun _ => hrefuse _, hrefuse _, hrefuse _, fun _ => hrefuse _,
      fun hu hrst => step_of_refuse (State.select_of_reserved hu hrst hw hp)⟩
  · exact (State.whenDefined_of_safe hs _).trans (if_neg hne)

end Sys2Proof.Machine
end

section
/-! PROOFS. What each operation and each step leaves unchanged (10_state.md sections 2 to 4; 20_memory.md R41, R45), and
the invariants every step keeps (10_state.md R35; 60_exceptions.md R115). -/

namespace Sys2Proof.Machine

/-! ### Frames -/

@[simp] theorem State.setCore_self (s : State) : s.setCore s.core = s := rfl

/-- ENC and DEC touch the core's registers alone, and neither `OUT` nor the mark. -/
theorem State.command_frame {s t : State} {m : Mode} (h : s.command m = .next t) :
    t = s.setCore t.core ∧ t.core.out = s.core.out ∧ t.core.wasReset = s.core.wasReset := by
  rcases State.command_next h with ⟨-, rfl⟩ | ⟨-, rfl⟩ <;> exact ⟨rfl, rfl, rfl⟩

/-- Settles O22, one operation after the other. -/
theorem operationFrames : Obligations.OperationFrames := by
  intro i s t h
  cases i with
  | nop m => exact (execNop_next (m := m) h).2
  | enc => exact State.command_frame (m := .encrypt) h
  | dec => exact State.command_frame (m := .decrypt) h
  | round r =>
    obtain ⟨-, hrnd, rfl⟩ := execRound_next h
    refine ⟨rfl, CoreRegs.round_mode _, CoreRegs.round_wasReset _, fun hne => ?_⟩
    obtain ⟨-, hphase, hout⟩ := CoreRegs.round_of_lt (rnd_lt_of_ne_last (hrnd ▸ hne))
    exact ⟨hout, hphase⟩
  | reset c => cases h; exact ⟨rfl, rfl, rfl, rfl, rfl, rfl, rfl, rfl⟩
  | ksHold dir r => cases h; rfl
  | ksStep dir r => cases h; rfl
  | ksLoad st dir r => cases h; rfl
  | rpRound => cases h; rfl
  | rpLast => cases h; rfl

/-- A step of the core writes the core's registers, and then the next port levels arrive. -/
theorem step_frame_of_core {s t : State} (h : step s = .next t) (hu : s.unit = .core) :
    t = (s.setCore t.core).advanceInputs := by
  rcases step_of_core hu with ⟨k, hk⟩ | ⟨⟨r, hr⟩, -⟩
  · rw [hk] at h
    cases h
    simp
  · rw [step_of_refuse hr] at h
    cases h

/-- Settles O27: the kinds of a step by their register writes, and the key register by the unit that is clocked. -/
theorem keyAndDataWriters : Obligations.KeyAndDataWriters := by
  intro s t h
  refine ⟨fun hload hround => ?_, fun hu => ?_, fun hu => step_next_of_standalone h hu⟩
  · rcases step_core_cases h with ⟨-, -, -, e⟩ | ⟨-, hr, -⟩ | ⟨-, -, hl, -⟩ | ⟨-, -, -, e⟩
    · rw [e]
      exact ⟨rfl, rfl, rfl, rfl⟩
    · exact absurd hr hround
    · exact absurd hl hload
    · rw [e]
      exact ⟨rfl, rfl, rfl, rfl⟩
  · cases hun : s.unit with
    | core => rw [step_frame_of_core h hun, State.advanceInputs_ksu, State.setCore_ksu]
    | ksu => exact absurd hun hu
    | rpu =>
      rw [step_of_rpu hun] at h
      cases h
      rw [State.advanceInputs_ksu, State.seeRp_ksu]

/-! ### The result and the inputs -/

/-- Settles O29 from O28 and O23: a core that is done runs no round, so no step writes `OUT`. -/
theorem resultStable : Obligations.ResultStable := by
  intro s t h hdone hload hreset
  have hkeep : s.done = true → ¬ s.LoadsNext → ¬ s.ResetsNext → t.done = true := (doneOutput.2 s t h).2.1
  refine ⟨hkeep hdone hload hreset, (outWriter s t h).1 ?_⟩
  rintro ⟨⟨-, -, -, hrun⟩, -⟩
  rw [State.done_eq_true_iff, hrun] at hdone
  cases hdone

/-- A step that is no LOAD is RESET, ROUND, or changes no register of the core. -/
theorem step_core_of_not_loads {s t : State} (h : step s = .next t) (hl : ¬ s.LoadsNext) :
    t.core = if s.ResetsNext then s.core.toIdle else if s.RoundsNext then s.core.round else s.core := by
  rcases step_core_cases h with ⟨hr, -, -, e⟩ | ⟨hn, hr, -, e⟩ | ⟨-, -, hl', -⟩ | ⟨hn, hn', -, e⟩
  · rw [e, if_pos hr]
  · rw [e, if_neg hn, if_pos hr]
  · exact absurd hl' hl
  · rw [e, if_neg hn, if_neg hn']

/-- Settles O30: which kind of step it is, LOAD aside, `rst` and the registers decide. -/
theorem inputsSampledByLoadOnly : Obligations.InputsSampledByLoadOnly := by
  intro s t t' p p' hrst hl hl' h h'
  have hresets : (s.drive (.core p)).ResetsNext ↔ (s.drive (.core p')).ResetsNext := by
    simp [State.ResetsNext, hrst]
  have hrounds : (s.drive (.core p)).RoundsNext ↔ (s.drive (.core p')).RoundsNext := by
    simp [State.RoundsNext, State.Running, hrst]
  rw [step_core_of_not_loads h hl, step_core_of_not_loads h' hl']
  simp only [hresets, hrounds, State.drive_core]

/-! ### The phase invariant and safety -/

/-- Settles O31: each clause reads the phase or the mark of `State.reset`. -/
theorem resetState : Obligations.ResetState :=
  ⟨rfl, rfl, rfl, ⟨rfl, by decide⟩, fun _ => ⟨by decide, nofun⟩⟩

/-- A ROUND step ends the block, with `RND` at 0, or leaves the phase alone. -/
theorem CoreRegs.round_phase (k : CoreRegs) :
    (k.round.phase = .done ∧ k.round.rnd = 0) ∨ k.round.phase = k.phase := by
  by_cases hlast : k.rnd = 15
  · obtain ⟨hrnd, hphase, -⟩ := CoreRegs.round_of_last hlast
    exact .inl ⟨hphase, hrnd⟩
  · exact .inr (CoreRegs.round_of_lt (rnd_lt_of_ne_last hlast)).2.1

/-- Settles O32, by the kind of the step: only a ROUND step reaches DONE, and it sets `RND` to 0 then. -/
theorem phaseInvKept : Obligations.PhaseInvKept := by
  intro s t hinv h
  rcases step_core_cases h with ⟨-, -, -, e⟩ | ⟨-, hr, -, e⟩ | ⟨-, -, -, e⟩ | ⟨-, -, -, e⟩
  · exact fun _ => by simp [e]
  · intro _
    rw [e]
    have hrun : s.core.phase = .run := hr.2.2.2
    rcases s.core.round_phase with ⟨hphase, hrnd⟩ | hphase
    · simp [hphase, hrnd]
    · simp [hphase, hrun]
  · exact fun _ => by simp [e]
  · unfold State.PhaseInv
    rwa [e]

/-- No step leaves the safe states, by the kind of the step. -/
theorem State.Safe.of_step {s t : State} (hs : s.Safe) (h : step s = .next t) : t.Safe := by
  obtain ⟨hw, hp⟩ := hs
  rcases step_core_cases h with ⟨-, -, -, e⟩ | ⟨-, -, -, e⟩ | ⟨-, -, -, e⟩ | ⟨-, -, -, e⟩
  · simp [State.Safe, e]
  · rw [State.Safe, e, CoreRegs.round_wasReset]
    refine ⟨hw, ?_⟩
    rcases s.core.round_phase with ⟨hphase, -⟩ | hphase
    · simp [hphase]
    · rwa [hphase]
  · simp [State.Safe, e, hw]
  · rw [State.Safe, e]
    exact ⟨hw, hp⟩

theorem State.Safe.step_next {s : State} (hs : s.Safe) : ∃ t, step s = .next t :=
  (step_next_or_refuse s).resolve_right fun hn => hn.2 hs

/-- Settles O33: the step completes, and in a safe state. -/
theorem safeStepsComplete : Obligations.SafeStepsComplete := by
  intro s hs
  obtain ⟨t, ht⟩ := hs.step_next
  exact ⟨t, ht, hs.of_step ht⟩

/-! ### States that agree on what the rules specify -/

theorem State.advanceInputs_setCore (s : State) (k : CoreRegs) :
    (s.setCore k).advanceInputs = s.advanceInputs.setCore k := by
  cases hp : s.pending with
  | nil =>
    rw [State.advanceInputs_of_nil hp]
    exact State.advanceInputs_of_nil hp
  | cons d ds =>
    rw [State.advanceInputs_of_cons hp, State.advanceInputs_of_cons (s := s.setCore k) hp]
    cases d <;> rfl

/-- The arrival of port levels keeps the agreement. -/
theorem State.SameSpecified.advanceInputs {s s' : State} (h : s.SameSpecified s') :
    s.advanceInputs.SameSpecified s'.advanceInputs := by
  obtain ⟨hw, hp, hrun, hdone, hrest⟩ := h
  constructor
  case rest => rw [State.advanceInputs_core, ← State.advanceInputs_setCore, hrest]
  all_goals simpa only [State.advanceInputs_core]

/-- A ROUND step reads `OUT` nowhere: below 15 it keeps it, and at 15 it replaces it. -/
theorem CoreRegs.round_setOut (k : CoreRegs) (o : Block) :
    CoreRegs.round { k with out := o } = if k.rnd.toNat < 15 then { k.round with out := o } else k.round := by
  simp only [CoreRegs.round, CoreRegs.cd]
  split <;> rfl

/-- After RESET the phase is IDLE, where no register but the mark is specified. -/
theorem State.SameSpecified.resets (s : State) (k : CoreRegs) :
    (s.setCore s.core.toIdle).SameSpecified (s.setCore k.toIdle) :=
  ⟨rfl, rfl, nofun, nofun, rfl⟩

section

variable {s : State} {k : CoreRegs} (h : s.SameSpecified (s.setCore k))
include h

/-- Agreement while a block is in progress leaves only `OUT` undetermined. -/
theorem State.SameSpecified.eq_setOut (hrun : s.core.phase = .run) : k = { s.core with out := k.out } := by
  obtain ⟨hc, hd, hl, hr, hrnd, hmode⟩ := h.running hrun
  have hw := h.wasReset
  have hp := h.phase
  simp only [State.setCore_core] at *
  simp only [hc, hd, hl, hr, hrnd, hmode, hw, hp]

theorem State.SameSpecified.loads (m : Mode) (key data : Block) :
    (s.setCore (s.core.load m key data)).SameSpecified (s.setCore (k.load m key data)) :=
  ⟨h.wasReset, rfl, fun _ => ⟨rfl, rfl, rfl, rfl, rfl, rfl⟩, nofun, rfl⟩

theorem State.SameSpecified.rounds (hrun : s.core.phase = .run) :
    (s.setCore s.core.round).SameSpecified (s.setCore k.round) := by
  rw [h.eq_setOut hrun, CoreRegs.round_setOut s.core k.out]
  by_cases hlt : s.core.rnd.toNat < 15
  · rw [if_pos hlt]
    refine ⟨rfl, rfl, fun _ => ⟨rfl, rfl, rfl, rfl, rfl, rfl⟩, fun hdone => ?_, rfl⟩
    rw [State.setCore_core, (CoreRegs.round_of_lt hlt).2.1, hrun] at hdone
    cases hdone
  · rw [if_neg hlt]
    exact ⟨rfl, rfl, fun _ => ⟨rfl, rfl, rfl, rfl, rfl, rfl⟩, fun _ => rfl, rfl⟩

/-- Agreeing states step together: both complete and agree again, or both are refused for the same reason. -/
theorem State.SameSpecified.step :
    (∃ t t', Machine.step s = .next t ∧ Machine.step (s.setCore k) = .next t' ∧ t.SameSpecified t') ∨
    (∃ r, Machine.step s = .refused r ∧ Machine.step (s.setCore k) = .refused r) := by
  have hw : s.core.wasReset = k.wasReset := h.wasReset
  have hp : s.core.phase = k.phase := h.phase
  cases hu : s.unit with
  | core =>
    rcases State.core_rows hu with hr | hr | hr | hr | ⟨hrst, hn⟩ | ⟨hrst, hn, hres⟩
    · exact .inl ⟨_, _, step_of_resets hr, step_of_resets (s := s.setCore k) hr,
        (State.SameSpecified.resets s k).advanceInputs⟩
    · have hr' : (s.setCore k).RoundsNext := by simpa [State.RoundsNext, State.Running, ← hw, ← hp] using hr
      exact .inl ⟨_, _, step_of_rounds hr, step_of_rounds hr', (h.rounds hr.2.2.2).advanceInputs⟩
    · have hr' : (s.setCore k).HoldsNext := by simpa [State.HoldsNext, State.Ready, ← hw, ← hp] using hr
      exact .inl ⟨_, _, step_of_holds hr, step_of_holds hr', h.advanceInputs⟩
    · have hr' : (s.setCore k).LoadsNext := by simpa [State.LoadsNext, State.Ready, ← hw, ← hp] using hr
      exact .inl ⟨_, _, step_of_loads hr, step_of_loads hr', (h.loads ..).advanceInputs⟩
    · exact .inr ⟨_, step_of_refuse (State.select_of_not_reset hu hrst hn),
        step_of_refuse (State.select_of_not_reset (s := s.setCore k) hu hrst (hw.symm.trans hn))⟩
    · exact .inr ⟨_, step_of_refuse (State.select_of_reserved hu hrst hn hres), step_of_refuse
        (State.select_of_reserved (s := s.setCore k) hu hrst (hw.symm.trans hn) (hp.symm.trans hres))⟩
  | ksu =>
    refine .inl ⟨_, _, step_of_ksu hu, step_of_ksu (s := s.setCore k) hu, State.SameSpecified.advanceInputs ?_⟩
    exact ⟨hw, hp, h.running, h.finished, rfl⟩
  | rpu =>
    refine .inl ⟨_, _, step_of_rpu hu, step_of_rpu (s := s.setCore k) hu, State.SameSpecified.advanceInputs ?_⟩
    exact ⟨hw, hp, h.running, h.finished, rfl⟩

end

theorem State.SameSpecified.outputs {s s' : State} (h : s.SameSpecified s') :
    s.busy = s'.busy ∧ s.done = s'.done ∧ (s.done = true → s.dataOut = s'.dataOut) := by
  refine ⟨?_, ?_, fun hdone => h.finished (State.done_eq_true_iff.mp hdone)⟩
  · rw [State.busy, State.busy, h.phase]
  · rw [State.done, State.done, h.phase]

/-- Settles O37: agreeing states step together, and agreeing states show the same outputs. -/
theorem unspecifiedNeverRead : Obligations.UnspecifiedNeverRead := by
  intro s s' h
  obtain ⟨k, rfl⟩ : ∃ k, s' = s.setCore k := ⟨s'.core, h.rest.symm⟩
  rcases h.step with ⟨u, u', hu, hu', hsame⟩ | ⟨r, hr, hr'⟩
  · refine ⟨fun t ht => ⟨u', hu', ?_⟩, fun r hr => ?_⟩
    · rw [hu] at ht
      cases ht
      exact ⟨hsame, hsame.outputs⟩
    · rw [hu] at hr
      cases hr
  · refine ⟨fun t ht => ?_, fun r' ht => ?_⟩
    · rw [hr] at ht
      cases ht
    · rwa [hr', ← hr]

end Sys2Proof.Machine
end

section
/-! PROOFS. The core computes `processBlock`: the block invariant, and the run of a block from its LOAD step on
(10_state.md R35; 42_block_driver.md R99, R104; 70_reset_and_hazards.md R141). -/

namespace Sys2Proof.Machine

/-! ### The registers as the loop's variables -/

/-- The core's key and halves, read as the variables of `processBlock`'s loop. -/
def CoreRegs.loopVars (k : CoreRegs) : LoopVars := { cd := k.cd, l := k.l, r := k.r }

theorem CoreRegs.loopVars_eq_iff {k : CoreRegs} {x : LoopVars} :
    k.loopVars = x ↔ k.cd = x.cd ∧ k.l = x.l ∧ k.r = x.r := by
  cases x
  simp only [CoreRegs.loopVars, LoopVars.mk.injEq]

/-- A LOAD step writes the variables before round 0 (R99, R100). -/
theorem CoreRegs.load_loopVars (m : Mode) (key data : Block) (k : CoreRegs) :
    (k.load m key data).loopVars = loopInit data key := by
  rw [CoreRegs.loopVars, CoreRegs.cd, CoreRegs.load_c, CoreRegs.load_d, joinKey_split]
  rfl

/-- A ROUND step is the loop's body (R99, R101). -/
theorem CoreRegs.round_loopVars (k : CoreRegs) : k.round.loopVars = loopBody k.mode k.loopVars k.rnd := by
  have hhalves : (k.round.l, k.round.r) =
      if k.rnd.toNat < 15 then rpRound k.l k.r (compress (rotate k.cd k.rnd k.mode))
      else rpLast k.l k.r (compress (rotate k.cd k.rnd k.mode)) := by
    by_cases hlast : k.rnd = 15
    · rw [CoreRegs.round_halves_of_last hlast, if_neg (by simp [hlast])]
    · have hlt := rnd_lt_of_ne_last hlast
      rw [CoreRegs.round_halves_of_lt hlt, if_pos hlt]
  have hl : k.round.l = _ := congrArg Prod.fst hhalves
  have hr : k.round.r = _ := congrArg Prod.snd hhalves
  rw [CoreRegs.loopVars, CoreRegs.round_cd, hl, hr]
  rfl

/-- The ROUND step of round `RND` takes the variables after `RND` rounds to those after one more. -/
theorem CoreRegs.round_loopAfter {block key : Block} {m : Mode} {k : CoreRegs} (hm : k.mode = m)
    (h : k.loopVars = loopAfter block key m k.rnd.toNat) :
    k.round.loopVars = loopAfter block key m (k.rnd.toNat + 1) := by
  rw [CoreRegs.round_loopVars, loopAfter_succ _ _ _ k.rnd.isLt, BitVec.ofNat_toNat, BitVec.setWidth_eq, hm, h]

/-! ### The block invariant -/

/-- The invariant through the loop's variables. -/
theorem blockInv_iff {block key : Block} {m : Mode} {s : State} :
    BlockInv block key m s ↔ s.core.mode = m ∧
      (s.core.phase = .run → s.core.loopVars = loopAfter block key m s.core.rnd.toNat) ∧
      (s.core.phase = .done → s.core.rnd = 0 ∧ s.core.out = processBlock block key m) := by
  simp only [CoreRegs.loopVars_eq_iff]

/-- The state after a LOAD step: the block sampled from the ports is in RUN at round 0. -/
theorem blockInv_of_loads {s t : State} (h : step s = .next t) (hl : s.LoadsNext) :
    BlockInv s.corePorts.dataIn s.corePorts.keyIn (Mode.ofBit (s.corePorts.cmd.getLsbD 0)) t := by
  rw [blockInv_iff, step_core_of_loads h hl]
  exact ⟨rfl, fun _ => CoreRegs.load_loopVars .., nofun⟩

/-- Settles O34: the LOAD step completes, in RUN, with the variables before round 0. -/
theorem loadStartsBlock : Obligations.LoadStartsBlock := by
  intro s hl
  have h := step_of_loads hl
  exact ⟨_, h, (phaseWriters s _ h).2.1 hl, blockInv_of_loads h hl⟩

/-- A ROUND step below 15 has one more round done, and that of 15 has the block done. -/
theorem blockInv_of_rounds {block key : Block} {m : Mode} {s t : State} (hinv : BlockInv block key m s)
    (hrun : s.core.phase = .run) (e : t.core = s.core.round) : BlockInv block key m t := by
  rw [blockInv_iff] at hinv ⊢
  obtain ⟨hmode, hvars, -⟩ := hinv
  have hnext := CoreRegs.round_loopAfter hmode (hvars hrun)
  rw [e]
  refine ⟨(CoreRegs.round_mode _).trans hmode, ?_⟩
  by_cases hlast : s.core.rnd = 15
  · obtain ⟨hrnd, hphase, hout⟩ := CoreRegs.round_of_last hlast
    have h16 : (15 : RoundIndex).toNat + 1 = 16 := rfl
    rw [hlast, h16] at hnext
    obtain ⟨-, hl, hr⟩ := CoreRegs.loopVars_eq_iff.mp hnext
    refine ⟨fun hp => by simp [hphase] at hp, fun _ => ⟨hrnd, ?_⟩⟩
    rw [hout, processBlock_eq, hl, hr]
  · have hlt := rnd_lt_of_ne_last hlast
    have hphase : s.core.round.phase = .run := (CoreRegs.round_of_lt hlt).2.1.trans hrun
    refine ⟨fun _ => ?_, fun hp => by simp [hphase] at hp⟩
    rw [CoreRegs.round_rnd_toNat hlt, hnext]

/-- Settles O35, by the kind of the step: RESET leaves RUN and DONE, ROUND is the loop's body, and nothing else but LOAD
writes a register. -/
theorem blockInvKept : Obligations.BlockInvKept := by
  intro block key m s t hinv h hl
  rcases step_core_cases h with ⟨-, -, -, e⟩ | ⟨-, hr, -, e⟩ | ⟨-, -, hl', -⟩ | ⟨-, -, -, e⟩
  · rw [blockInv_iff, e]
    exact ⟨hinv.1, nofun, nofun⟩
  · exact blockInv_of_rounds hinv hr.2.2.2 e
  · exact absurd hl' hl
  · unfold BlockInv
    rwa [e]

/-! ### A block in progress, round by round -/

/-- The core runs round `n` of the block, its last result still in `OUT`. -/
structure State.AtRound (block key : Block) (m : Mode) (out : Block) (n : Nat) (s : State) : Prop where
  running : s.Running
  rnd : s.core.rnd.toNat = n
  inv : BlockInv block key m s
  dataOut : s.dataOut = out

/-- The core has finished the block. -/
structure State.Finished (block key : Block) (m : Mode) (s : State) : Prop where
  phase : s.core.phase = .done
  rnd : s.core.rnd = 0
  dataOut : s.dataOut = processBlock block key m

theorem State.LoadsNext.atRound {s t : State} (hl : s.LoadsNext) (h : step s = .next t) :
    t.AtRound s.corePorts.dataIn s.corePorts.keyIn (Mode.ofBit (s.corePorts.cmd.getLsbD 0)) s.dataOut 0 := by
  have e := step_core_of_loads h hl
  refine ⟨?_, ?_, blockInv_of_loads h hl, ?_⟩
  · rw [State.Running, e]
    exact ⟨hl.2.2.2.1, rfl⟩
  · rw [e]
    rfl
  · rw [State.dataOut, e]
    rfl

section

variable {block key out : Block} {m : Mode} {n : Nat} {s t : State}

/-- Clocked out of reset, the core takes its ROUND step. -/
theorem State.AtRound.roundsNext (hs : s.AtRound block key m out n) (hu : s.unit = .core)
    (hrst : s.corePorts.rst = false) : s.RoundsNext := ⟨hu, hrst, hs.running⟩

/-- The round is the core's, whatever its ports hold. -/
theorem State.AtRound.drive (hs : s.AtRound block key m out n) (p : CorePorts) :
    (s.drive (.core p)).AtRound block key m out n :=
  ⟨hs.running, hs.rnd, hs.inv, hs.dataOut⟩

theorem State.AtRound.step_of_lt (hs : s.AtRound block key m out n) (hn : n < 15) (hr : s.RoundsNext)
    (h : step s = .next t) : t.AtRound block key m out (n + 1) := by
  have e := step_core_of_rounds h hr
  have hlt : s.core.rnd.toNat < 15 := hs.rnd ▸ hn
  obtain ⟨-, hphase, hout⟩ := CoreRegs.round_of_lt hlt
  refine ⟨?_, ?_, blockInv_of_rounds hs.inv hs.running.2 e, ?_⟩
  · rw [State.Running, e, CoreRegs.round_wasReset, hphase]
    exact hs.running
  · rw [e, CoreRegs.round_rnd_toNat hlt, hs.rnd]
  · rw [State.dataOut, e, hout]
    exact hs.dataOut

theorem State.AtRound.step_of_last (hs : s.AtRound block key m out 15) (hr : s.RoundsNext)
    (h : step s = .next t) : t.Finished block key m := by
  have e := step_core_of_rounds h hr
  have hlast : s.core.rnd = 15 := BitVec.eq_of_toNat_eq hs.rnd
  obtain ⟨hrnd, hphase, -⟩ := CoreRegs.round_of_last hlast
  have hdone : t.core.phase = .done := by rw [e, hphase]
  obtain ⟨-, -, hresult⟩ := blockInv_of_rounds hs.inv hs.running.2 e
  exact ⟨hdone, (hresult hdone).1, (hresult hdone).2⟩

end

/-! ### A run of the machine through a block -/

/-- The core is clocked out of reset in the next step and in the `n` steps after it. -/
structure State.OutOfReset (n : Nat) (s : State) : Prop where
  unit : s.unit = .core
  rst : s.corePorts.rst = false
  pending : ∀ d ∈ s.pending.take n, d.NoReset

/-- A step out of reset leaves one step fewer to come. -/
theorem State.OutOfReset.step {n : Nat} {s t : State} (hs : s.OutOfReset (n + 1)) (h : step s = .next t) :
    t.OutOfReset n := by
  obtain ⟨hu, hrst, hpend⟩ := hs
  rw [step_frame_of_core h hu]
  cases hp : s.pending with
  | nil =>
    rw [State.advanceInputs_of_nil (s := s.setCore t.core) hp]
    exact ⟨hu, hrst, by simp [hp]⟩
  | cons d ds =>
    rw [hp, List.take_succ_cons, List.forall_mem_cons] at hpend
    obtain ⟨hd, hds⟩ := hpend
    rw [State.advanceInputs_of_cons (s := s.setCore t.core) hp]
    cases d with
    | core p => exact ⟨rfl, hd, hds⟩
    | ksu p => exact hd.elim
    | rpu p => exact hd.elim

/-- After LOAD and `n` further steps out of reset the core is at round `n`. -/
theorem run_atRound {s : State} (hl : s.LoadsNext) (hs : s.OutOfReset 16) {n : Nat} (hn : n < 16) :
    ∃ t, Sys2Proof.core.run (n + 1) s = .next t ∧ t.OutOfReset (15 - n) ∧
      t.AtRound s.corePorts.dataIn s.corePorts.keyIn (Mode.ofBit (s.corePorts.cmd.getLsbD 0)) s.dataOut n := by
  induction n with
  | zero =>
    have h := step_of_loads hl
    exact ⟨_, run_next h, hs.step h, hl.atRound h⟩
  | succ n ih =>
    obtain ⟨t, hrun, ht, hat⟩ := ih (by omega)
    have hr := hat.roundsNext ht.unit ht.rst
    have h := step_of_rounds hr
    rw [show 15 - n = 15 - (n + 1) + 1 by omega] at ht
    exact ⟨_, (run_succ hrun).trans h, ht.step h, hat.step_of_lt (by omega) hr h⟩

/-- Settles O36: after LOAD each step is the round that `RND` names, and round 15 ends the block. -/
theorem sixteenRoundsComputeProcessBlock : Obligations.SixteenRoundsComputeProcessBlock := by
  intro s hl hpend
  have hs : s.OutOfReset 16 := ⟨hl.1, hl.2.1, hpend⟩
  constructor
  · intro n hn
    obtain ⟨t, hrun, -, hat⟩ := run_atRound hl hs hn
    exact ⟨t, hrun, hat.running.2, hat.rnd, State.outputs_of_run hat.running.2 |>.1,
      State.outputs_of_run hat.running.2 |>.2, hat.dataOut⟩
  · obtain ⟨t, hrun, ht, hat⟩ := run_atRound hl hs (n := 15) (by decide)
    have hr := hat.roundsNext ht.unit ht.rst
    have h := step_of_rounds hr
    have hfin := hat.step_of_last hr h
    obtain ⟨hbusy, hdone⟩ := State.outputs_of_done hfin.phase
    exact ⟨_, (run_succ hrun).trans h, hfin.phase, hfin.rnd, hbusy, hdone, hfin.dataOut⟩

end Sys2Proof.Machine
end

section
/-! PROOFS. The key schedule's sequences: rotations compose and undo each other, the decryption sequence is the
encryption sequence reversed, and the keys that the parity bits or the rotations leave alone
(40_key_schedule.md R68, R72, R73, R78, R79). -/

namespace Sys2Proof.Machine

/-! ### Rotations of a half -/

theorem rotl28_rotl28 (x : KeyHalf) {n m : Nat} (hn : n ≤ 27) (hm : m ≤ 27) :
    rotl28 (rotl28 x n) m = rotl28 x ((n + m) % 28) := by
  refine bit_ext fun i h1 hi => ?_
  rw [bit_rotl28 _ hm h1 hi, bit_rotl28 _ hn (by omega) (by omega), bit_rotl28 _ (by omega) h1 hi]
  congr 1
  omega

theorem rotr28_rotl28 (x : KeyHalf) {n : Nat} (hn : n ≤ 27) : rotr28 (rotl28 x n) n = x := by
  refine bit_ext fun i h1 hi => ?_
  rw [bit_rotr28 _ hn h1 hi, bit_rotl28 _ hn (by omega) (by omega)]
  congr 1
  omega

/-! ### Forward and reverse rotation of a round key -/

/-- A reverse rotation undoes a forward rotation by the same amount. -/
theorem rotateRev_rotateFwd (cd : RoundKey) {i j : RoundIndex} (h : dshift j = shift i) :
    rotateRev (rotateFwd cd i) j = cd := by
  have hle : shift i ≤ 27 := (shift_le i).trans (by decide)
  rw [rotateRev, rotateFwd, hi28_joinKey, lo28_joinKey, h, rotr28_rotl28 _ hle, rotr28_rotl28 _ hle, joinKey_split]

/-- Settles O41: from round 1 on the two amounts are the same, and that of decryption round 0 is 0. -/
theorem reverseRotationUndoes : Obligations.ReverseRotationUndoes :=
  fun cd _ => ⟨fun hj => rotateRev_rotateFwd cd (dshift_eq_shift hj), rotateRev_zero cd⟩

/-! ### The encryption sequence -/

theorem scheduleKey_succ (cd : RoundKey) (m : Mode) {n : Nat} (h : n < 16) :
    scheduleKey cd m (n + 1) = rotate (scheduleKey cd m n) (BitVec.ofNat 4 n) m := by
  simp [scheduleKey, roundIndexes_take_succ h]

theorem sum_shiftTable_succ {n : Nat} (h : n < 16) :
    (shiftTable.take (n + 1)).sum = (shiftTable.take n).sum + shift (BitVec.ofNat 4 n) := by
  revert h; revert n; decide

/-- The halves of a round key are those of the start, rotated by the sum of the amounts so far (R72). -/
theorem scheduleKey_encrypt_halves (cd : RoundKey) {n : Nat} (h : n ≤ 16) :
    hi28 (scheduleKey cd .encrypt n) = rotl28 (hi28 cd) ((shiftTable.take n).sum % 28) ∧
      lo28 (scheduleKey cd .encrypt n) = rotl28 (lo28 cd) ((shiftTable.take n).sum % 28) := by
  induction n with
  | zero => exact ⟨(rotl28_zero _).symm, (rotl28_zero _).symm⟩
  | succ n ih =>
    obtain ⟨hhi, hlo⟩ := ih (by omega)
    have hle : shift (BitVec.ofNat 4 n) ≤ 27 := (shift_le _).trans (by decide)
    have hmod : (shiftTable.take n).sum % 28 ≤ 27 := by omega
    rw [scheduleKey_succ cd _ h, hi28_rotate_encrypt, lo28_rotate_encrypt, hhi, hlo, rotl28_rotl28 _ hmod hle,
      rotl28_rotl28 _ hmod hle, Nat.mod_add_mod, sum_shiftTable_succ h]
    exact ⟨rfl, rfl⟩

/-- The sixteen amounts add up to a full turn (R72). -/
theorem scheduleKey_encrypt_sixteen (cd : RoundKey) : scheduleKey cd .encrypt 16 = cd := by
  obtain ⟨hhi, hlo⟩ := scheduleKey_encrypt_halves cd (le_refl 16)
  have hsum : (shiftTable.take 16).sum % 28 = 0 := by decide
  rw [hsum, rotl28_zero] at hhi hlo
  rw [← joinKey_split (scheduleKey cd .encrypt 16), hhi, hlo, joinKey_split]

/-- Settles O42: one more rotation at each round, and the halves by the sums of the amounts. -/
theorem encryptionSequence : Obligations.EncryptionSequence := by
  intro key j hj
  obtain ⟨hhi, hlo⟩ := scheduleKey_encrypt_halves (derivePermutedKey key) hj
  exact ⟨scheduleKey_succ _ _ hj, rfl, hhi, hlo, scheduleKey_encrypt_sixteen _⟩

/-! ### The decryption sequence -/

/-- Decryption step `n + 1` rotates back by what encryption round `15 - n` rotated (R65, R66). -/
theorem dshift_succ_eq_shift {n : Nat} (h : n < 15) :
    dshift (BitVec.ofNat 4 (n + 1)) = shift (BitVec.ofNat 4 (15 - n)) := by
  revert h; revert n; decide

/-- The round keys of decryption are those of encryption from the end (R73). -/
theorem scheduleKey_decrypt_succ (cd : RoundKey) {n : Nat} (h : n < 16) :
    scheduleKey cd .decrypt (n + 1) = scheduleKey cd .encrypt (16 - n) := by
  induction n with
  | zero =>
    rw [scheduleKey_succ cd _ h, scheduleKey_zero, Nat.sub_zero, scheduleKey_encrypt_sixteen]
    exact rotate_zero_decrypt cd
  | succ n ih =>
    rw [scheduleKey_succ cd _ h, ih (by omega), show 16 - n = 15 - n + 1 by omega, scheduleKey_succ cd _ (by omega),
      show 16 - (n + 1) = 15 - n by omega]
    exact rotateRev_rotateFwd _ (dshift_succ_eq_shift (by omega))

theorem subkey_decrypt (key : Block) {n : Nat} (h : n < 16) : subkey key .decrypt n = subkey key .encrypt (15 - n) := by
  rw [subkey, subkey, scheduleKey_decrypt_succ _ h, show 16 - n = 15 - n + 1 by omega]

/-- Settles O43 from the reversal of the round keys. -/
theorem decryptionSequence : Obligations.DecryptionSequence :=
  fun key _ hj => ⟨scheduleKey_succ _ _ hj, scheduleKey_decrypt_succ _ hj, subkey_decrypt key hj,
    scheduleKey_decrypt_succ (derivePermutedKey key) (n := 15) (by decide)⟩

/-! ### Parity -/

/-- PC-1 takes no parity bit (R63, R78). -/
theorem tablePC1_not_parity {k : Nat} (hk : k < 56) :
    1 ≤ tablePC1.getD k 0 ∧ tablePC1.getD k 0 ≤ 64 ∧ tablePC1.getD k 0 % 8 ≠ 0 := by
  revert hk; revert k; decide

theorem derivePermutedKey_congr {k k' : Block} (h : ∀ i, 1 ≤ i → i ≤ 64 → i % 8 ≠ 0 → bit k i = bit k' i) :
    derivePermutedKey k = derivePermutedKey k' := by
  refine bit_ext fun i h1 hi => ?_
  obtain ⟨n, rfl⟩ := Nat.exists_eq_add_of_le' h1
  obtain ⟨hlo, hhi, hpar⟩ := tablePC1_not_parity hi
  rw [bit_derivePermutedKey k hi, bit_derivePermutedKey k' hi, h _ hlo hhi hpar]

/-- Settles O44: subkeys and results read the key through PC-1 alone. -/
theorem parityIndependence : Obligations.ParityIndependence := by
  intro k k' h
  have hkey := derivePermutedKey_congr h
  refine ⟨fun dir j => ?_, fun b m => ?_⟩
  · rw [subkey, subkey, hkey]
  · rw [processBlock_eq, processBlock_eq, loopAfter, loopAfter, loopInit, loopInit, hkey]

/-! ### Keys that no rotation moves -/

theorem bit_of_constantHalf {x : KeyHalf} (h : ConstantHalf x) {i i' : Nat} (h1 : 1 ≤ i) (hi : i ≤ 28) (h1' : 1 ≤ i')
    (hi' : i' ≤ 28) : bit x i = bit x i' := by
  rcases h with rfl | rfl
  · simp [bit]
  · simp only [bit, BitVec.getLsbD_allOnes, show 28 - i < 28 by omega, show 28 - i' < 28 by omega]

theorem rotl28_of_constantHalf {x : KeyHalf} (h : ConstantHalf x) {n : Nat} (hn : n ≤ 27) : rotl28 x n = x := by
  refine bit_ext fun i h1 hi => ?_
  rw [bit_rotl28 x hn h1 hi]
  exact bit_of_constantHalf h (by omega) (by omega) h1 hi

theorem rotr28_of_constantHalf {x : KeyHalf} (h : ConstantHalf x) {n : Nat} (hn : n ≤ 27) : rotr28 x n = x := by
  refine bit_ext fun i h1 hi => ?_
  rw [bit_rotr28 x hn h1 hi]
  exact bit_of_constantHalf h (by omega) (by omega) h1 hi

section

variable {cd : RoundKey} (hhi : ConstantHalf (hi28 cd)) (hlo : ConstantHalf (lo28 cd))
include hhi hlo

theorem rotate_of_constantHalves (j : RoundIndex) (m : Mode) : rotate cd j m = cd := by
  have hs : shift j ≤ 27 := (shift_le j).trans (by decide)
  have hd : dshift j ≤ 27 := (dshift_le j).trans (by decide)
  rw [← joinKey_split (rotate cd j m)]
  cases m
  · rw [hi28_rotate_encrypt, lo28_rotate_encrypt, rotl28_of_constantHalf hhi hs, rotl28_of_constantHalf hlo hs,
      joinKey_split]
  · rw [hi28_rotate_decrypt, lo28_rotate_decrypt, rotr28_of_constantHalf hhi hd, rotr28_of_constantHalf hlo hd,
      joinKey_split]

theorem scheduleKey_of_constantHalves (m : Mode) (n : Nat) : scheduleKey cd m n = cd := by
  rw [scheduleKey]
  induction roundIndexes.take n with
  | nil => rfl
  | cons j js ih => rw [List.foldl_cons, rotate_of_constantHalves hhi hlo, ih]

end

/-- The halves of the four named keys' permuted keys, evaluated key by key (R79). -/
theorem constantHalves_of_namedKeys : ∀ key ∈ ([0x0101010101010101, 0xFEFEFEFEFEFEFEFE, 0x1F1F1F1F0E0E0E0E,
    0xE0E0E0E0F1F1F1F1] : List Block),
    ConstantHalf (hi28 (derivePermutedKey key)) ∧ ConstantHalf (lo28 (derivePermutedKey key)) := by
  rw [List.forall_mem_cons, List.forall_mem_cons, List.forall_mem_cons, List.forall_mem_singleton]
  decide

end Sys2Proof.Machine
end

section
/-! PROOFS. The block function as a Feistel pass between the two permutations, and what follows from it: the round trip
of blocks and buffers, the constant schedules and complementation (41_feistel_round.md R93; 42_block_driver.md R97, R99,
R109; 40_key_schedule.md R79; 95_test_vectors.md V23). -/

namespace Sys2Proof.Machine

/-! ### A pass of rounds and its inverse -/

/-- RP_ROUND on a pair of halves (R90). -/
def rpRoundPair (x : Half × Half) (k : Subkey) : Half × Half := rpRound x.1 x.2 k

theorem rpLast_eq_swap (l r : Half) (k : Subkey) : rpLast l r k = (rpRound l r k).swap := rfl

/-- A pass swaps before each round but the first, so it is a fold of RP_ROUND with the last swap taken back (R93). -/
theorem feistelPass_eq_foldl {ks : List Subkey} (h : ks ≠ []) (x : Half × Half) :
    feistelPass ks x = (ks.foldl rpRoundPair x).swap := by
  induction ks generalizing x with
  | nil => exact absurd rfl h
  | cons k ks ih =>
    cases ks with
    | nil => exact rpLast_eq_swap x.1 x.2 k
    | cons k' ks => exact ih (List.cons_ne_nil k' ks) (rpRoundPair x k)

/-- A round between two swaps is undone by the same round. -/
theorem rpRoundPair_swap_rpRoundPair (x : Half × Half) (k : Subkey) :
    rpRoundPair (rpRoundPair x k).swap k = x.swap := by
  simp [rpRoundPair, rpRound, Prod.swap]

/-- The rounds under the subkeys in reverse undo the rounds, between two swaps. -/
theorem foldl_reverse_rpRoundPair (ks : List Subkey) (x : Half × Half) :
    ks.reverse.foldl rpRoundPair (ks.foldl rpRoundPair x).swap = x.swap := by
  induction ks generalizing x with
  | nil => rfl
  | cons k ks ih =>
    simp only [List.reverse_cons, List.foldl_append, List.foldl_cons, List.foldl_nil, ih]
    exact rpRoundPair_swap_rpRoundPair x k

theorem feistelPass_reverse {ks : List Subkey} (h : ks ≠ []) (x : Half × Half) :
    feistelPass ks.reverse (feistelPass ks x) = x := by
  rw [feistelPass_eq_foldl h, feistelPass_eq_foldl (List.reverse_ne_nil_iff.mpr h), foldl_reverse_rpRoundPair,
    Prod.swap_swap]

theorem rpLast_rpLast (l r : Half) (k : Subkey) : rpLast (rpLast l r k).1 (rpLast l r k).2 k = (l, r) := by
  simp [rpLast]

/-- Settles O46: a round's mixing cancels itself, and a pass is a fold of rounds. -/
theorem feistelSymmetry : Obligations.FeistelSymmetry := by
  refine ⟨fun l r k => ⟨rfl, rpLast_rpLast l r k⟩, fun ks x hlen => feistelPass_reverse ?_ x⟩
  rintro rfl
  cases hlen

/-! ### The two permutations -/

/-- Where each entry of a table leads, through a second table, back to the entry's own position, the two permutations
undo each other. -/
theorem permute_permute_of_inverse {T T' : List Nat}
    (h : ∀ k, k < T'.length → 1 ≤ T'.getD k 0 ∧ T'.getD k 0 ≤ T.length ∧ T.getD (T'.getD k 0 - 1) 0 = k + 1)
    (v : BitVec T'.length) : permute T'.length T' (permute T.length T v) = v := by
  refine bit_ext fun i h1 hi => ?_
  obtain ⟨k, rfl⟩ := Nat.exists_eq_add_of_le' h1
  obtain ⟨hlo, hhi, hback⟩ := h k hi
  obtain ⟨j, hj⟩ := Nat.exists_eq_add_of_le' hlo
  rw [hj, Nat.add_sub_cancel] at hback
  rw [bit_permute T' _ hi, hj, bit_permute T v (by omega), hback]

/-- Entry `k` (from 0) of IP leads through FP back to position `k + 1` (R97). -/
theorem tableFP_of_tableIP : ∀ k, k < 64 →
    1 ≤ tableIP.getD k 0 ∧ tableIP.getD k 0 ≤ 64 ∧ tableFP.getD (tableIP.getD k 0 - 1) 0 = k + 1 := by
  decide

/-- Entry `k` (from 0) of FP leads through IP back to position `k + 1` (R97). -/
theorem tableIP_of_tableFP : ∀ k, k < 64 →
    1 ≤ tableFP.getD k 0 ∧ tableFP.getD k 0 ≤ 64 ∧ tableIP.getD (tableFP.getD k 0 - 1) 0 = k + 1 := by
  decide

@[simp] theorem finalPermute_initialPermute (v : Block) : finalPermute (initialPermute v) = v :=
  permute_permute_of_inverse (T := tableIP) (T' := tableFP) tableIP_of_tableFP v

@[simp] theorem initialPermute_finalPermute (v : Block) : initialPermute (finalPermute v) = v :=
  permute_permute_of_inverse (T := tableFP) (T' := tableIP) tableFP_of_tableIP v

/-- Settles O47: the values by the tables' positions. -/
theorem finalInvertsInitial : Obligations.FinalInvertsInitial := by
  refine ⟨fun v => ⟨finalPermute_initialPermute v, initialPermute_finalPermute v⟩, fun j h1 hj => ?_⟩
  obtain ⟨k, rfl⟩ := Nat.exists_eq_add_of_le' h1
  exact (tableFP_of_tableIP k hj).2.2

/-! ### The block function as a pass -/

/-- The sixteen subkeys of a block, in the order of its rounds (R72, R73). -/
def roundSubkeys (key : Block) (m : Mode) : List Subkey := (List.range 16).map (subkey key m)

theorem roundSubkeys_ne_nil (key : Block) (m : Mode) : roundSubkeys key m ≠ [] := by
  simp [roundSubkeys]

/-- The loop's key after `n` rounds is the schedule's. -/
theorem loopAfter_cd (block key : Block) (m : Mode) {n : Nat} (h : n ≤ 16) :
    (loopAfter block key m n).cd = scheduleKey (derivePermutedKey key) m n := by
  induction n with
  | zero => rfl
  | succ n ih => rw [loopAfter_succ _ _ _ h, scheduleKey_succ _ _ h, ← ih (by omega)]; rfl

/-- Round `n` of the loop compresses the schedule's next key (R99). -/
theorem compress_loopAfter (block key : Block) (m : Mode) {n : Nat} (h : n < 16) :
    compress (rotate (loopAfter block key m n).cd (BitVec.ofNat 4 n) m) = subkey key m n := by
  rw [loopAfter_cd _ _ _ h.le, ← scheduleKey_succ _ _ h, subkey]

/-- The halves on which the loop starts (R95, R99). -/
def initialHalves (block : Block) : Half × Half := (hi32 (initialPermute block), lo32 (initialPermute block))

/-- Below round 15 the loop's halves are folded by RP_ROUND under the subkeys so far (R99). -/
theorem loopAfter_halves (block key : Block) (m : Mode) {n : Nat} (h : n ≤ 15) :
    ((loopAfter block key m n).l, (loopAfter block key m n).r) =
      ((List.range n).map (subkey key m)).foldl rpRoundPair (initialHalves block) := by
  induction n with
  | zero => rfl
  | succ n ih =>
    have hlt : (BitVec.ofNat 4 n).toNat < 15 := by rw [BitVec.toNat_ofNat]; omega
    rw [List.range_succ, List.map_append, List.foldl_append, ← ih (by omega), loopAfter_succ _ _ _ (by omega),
      loopBody, if_pos hlt, compress_loopAfter _ _ _ (by omega)]
    rfl

/-- `processBlock` is IP, a pass under the sixteen subkeys, and FP (R99). -/
theorem processBlock_eq_feistelPass (block key : Block) (m : Mode) :
    processBlock block key m =
      finalPermute (joinHalves (feistelPass (roundSubkeys key m) (initialHalves block)).1
        (feistelPass (roundSubkeys key m) (initialHalves block)).2) := by
  have hlast : ((loopAfter block key m 16).l, (loopAfter block key m 16).r) =
      feistelPass (roundSubkeys key m) (initialHalves block) := by
    rw [feistelPass_eq_foldl (roundSubkeys_ne_nil key m), roundSubkeys, List.range_succ, List.map_append,
      List.foldl_append, ← loopAfter_halves _ _ _ (le_refl 15), loopAfter_succ _ _ _ (by decide : 15 < 16), loopBody,
      if_neg (by decide), compress_loopAfter _ _ _ (by decide : 15 < 16)]
    rfl
  rw [processBlock_eq, ← hlast]

/-- IP takes a processed block back to the halves at the end of its pass. -/
theorem initialHalves_processBlock (block key : Block) (m : Mode) :
    initialHalves (processBlock block key m) = feistelPass (roundSubkeys key m) (initialHalves block) := by
  rw [processBlock_eq_feistelPass, initialHalves, initialPermute_finalPermute, hi32_joinHalves, lo32_joinHalves]

/-- A block whose pass undoes another's gives that block back. -/
theorem processBlock_processBlock_of_reverse {key key' : Block} {m m' : Mode}
    (h : roundSubkeys key' m' = (roundSubkeys key m).reverse) (block : Block) :
    processBlock (processBlock block key m) key' m' = block := by
  rw [processBlock_eq_feistelPass, initialHalves_processBlock, h, feistelPass_reverse (roundSubkeys_ne_nil key m),
    initialHalves, joinHalves_split, finalPermute_initialPermute]

/-! ### The round trip -/

theorem roundSubkeys_decrypt (key : Block) : roundSubkeys key .decrypt = (roundSubkeys key .encrypt).reverse := by
  have hrev : (List.range 16).reverse = (List.range 16).map (15 - ·) := by decide
  rw [roundSubkeys, roundSubkeys, ← List.map_reverse, hrev, List.map_map]
  exact List.map_congr_left fun j hj => subkey_decrypt key (List.mem_range.mp hj)

/-- The other mode's subkeys are the same ones from the end (R73). -/
theorem roundSubkeys_of_ne {m m' : Mode} (h : m ≠ m') (key : Block) :
    roundSubkeys key m' = (roundSubkeys key m).reverse := by
  cases m <;> cases m'
  case encrypt.decrypt => exact roundSubkeys_decrypt key
  case decrypt.encrypt => rw [roundSubkeys_decrypt, List.reverse_reverse]
  all_goals exact absurd rfl h

/-- The other mode undoes a mode on every block (R109). -/
theorem processBlock_processBlock {m m' : Mode} (h : m ≠ m') (block key : Block) :
    processBlock (processBlock block key m) key m' = block :=
  processBlock_processBlock_of_reverse (roundSubkeys_of_ne h key) block

/-- Block by block, the other mode gives a buffer of whole blocks back. -/
theorem mapBlocks_mapBlocks {m m' : Mode} (h : m ≠ m') (key : Block) {n : Nat} {bs : List Byte}
    (hlen : bs.length = 8 * n) : mapBlocks key m' n (mapBlocks key m n bs) = bs := by
  induction n generalizing bs with
  | zero => exact (List.length_eq_zero_iff.mp hlen).symm
  | succ n ih =>
    have htake : (bs.take 8).length = 8 := by rw [List.length_take]; omega
    have hdrop : (bs.drop 8).length = 8 * n := by rw [List.length_drop]; omega
    rw [mapBlocks, mapBlocks, List.take_left' (length_bytesOfBlock _), List.drop_left' (length_bytesOfBlock _),
      blockOfBytes_bytesOfBlock, processBlock_processBlock h, bytesOfBlock_blockOfBytes htake, ih hdrop,
      List.take_append_drop]

@[simp] theorem pad_mapBlocks (key : Block) (m : Mode) (n : Nat) (bs : List Byte) :
    pad (mapBlocks key m n bs) = mapBlocks key m n bs :=
  pad_of_whole_blocks (by rw [length_mapBlocks]; omega)

theorem processBuffer_processBuffer {m m' : Mode} (h : m ≠ m') {buf key out : List Byte}
    (hout : processBuffer buf key m = .bytes out) : processBuffer out key m' = .bytes (pad buf) := by
  by_cases hkey : key.length = 8
  · rw [processBuffer_of_key hkey] at hout ⊢
    cases hout
    have hwhole : (8 * ((buf.length + 7) / 8) + 7) / 8 = (buf.length + 7) / 8 := by omega
    rw [pad_mapBlocks, length_mapBlocks, hwhole, mapBlocks_mapBlocks h _ (length_pad buf)]
  · rw [processBuffer_of_wrong_key hkey] at hout
    cases hout

/-- Settles O48 from the reversal of the subkeys, block by block. -/
theorem roundTrip : Obligations.RoundTrip :=
  fun _ _ h => ⟨processBlock_processBlock h, fun _ _ _ => processBuffer_processBuffer h, fun _ => pad_of_whole_blocks⟩

/-! ### Constant schedules -/

/-- The block function reads the key through its subkeys alone. -/
theorem processBlock_congr {key key' : Block} {m m' : Mode} (h : roundSubkeys key m = roundSubkeys key' m')
    (block : Block) : processBlock block key m = processBlock block key' m' := by
  rw [processBlock_eq_feistelPass, processBlock_eq_feistelPass, h]

/-- Settles O45: no rotation moves the key, so both directions have the same subkeys, and the round trip gives the
third clause. -/
theorem constantSchedules : Obligations.ConstantSchedules := by
  refine ⟨fun key hhi hlo => ?_, constantHalves_of_namedKeys⟩
  have hsub : ∀ dir j, subkey key dir j = compress (derivePermutedKey key) := fun dir j => by
    rw [subkey, scheduleKey_of_constantHalves hhi hlo]
  have hboth : ∀ b, processBlock b key .decrypt = processBlock b key .encrypt :=
    processBlock_congr (List.map_congr_left fun j _ => (hsub .decrypt j).trans (hsub .encrypt j).symm)
  refine ⟨hsub, hboth, fun b => ?_⟩
  rw [← hboth]
  exact processBlock_processBlock (by decide) b key

/-! ### Complementation -/

/-- A permutation of a complement is the complement of the permutation. -/
theorem permute_not {w : Nat} (T : List Nat) (hT : ∀ p ∈ T, 1 ≤ p ∧ p ≤ w) (v : BitVec w) :
    permute T.length T (~~~v) = ~~~permute T.length T v := by
  refine bit_ext fun i h1 hi => ?_
  obtain ⟨k, rfl⟩ := Nat.exists_eq_add_of_le' h1
  have hmem : T.getD k 0 ∈ T := by
    rw [List.getD_eq_getElem _ _ hi]
    exact List.getElem_mem hi
  obtain ⟨hlo, hhi⟩ := hT _ hmem
  rw [bit_permute T _ hi, bit_not v hlo hhi, bit_not _ h1 hi, bit_permute T v hi]

theorem initialPermute_not (v : Block) : initialPermute (~~~v) = ~~~initialPermute v :=
  permute_not tableIP (by decide) v

theorem finalPermute_not (v : Block) : finalPermute (~~~v) = ~~~finalPermute v := permute_not tableFP (by decide) v

theorem derivePermutedKey_not (key : Block) : derivePermutedKey (~~~key) = ~~~derivePermutedKey key :=
  permute_not tablePC1 (by decide) key

theorem compress_not (cd : RoundKey) : compress (~~~cd) = ~~~compress cd := permute_not tablePC2 (by decide) cd

theorem expand_not (r : Half) : expand (~~~r) = ~~~expand r := permute_not tableE (by decide) r

theorem rotl28_not (x : KeyHalf) {n : Nat} (hn : n ≤ 27) : rotl28 (~~~x) n = ~~~rotl28 x n := by
  refine bit_ext fun i h1 hi => ?_
  rw [bit_rotl28 _ hn h1 hi, bit_not x (by omega) (by omega), bit_not _ h1 hi, bit_rotl28 x hn h1 hi]

theorem rotr28_not (x : KeyHalf) {n : Nat} (hn : n ≤ 27) : rotr28 (~~~x) n = ~~~rotr28 x n := by
  refine bit_ext fun i h1 hi => ?_
  rw [bit_rotr28 _ hn h1 hi, bit_not x (by omega) (by omega), bit_not _ h1 hi, bit_rotr28 x hn h1 hi]

theorem joinKey_not (c d : KeyHalf) : joinKey (~~~c) (~~~d) = ~~~joinKey c d := BitVec.not_append.symm

theorem joinHalves_not (l r : Half) : joinHalves (~~~l) (~~~r) = ~~~joinHalves l r := BitVec.not_append.symm

theorem hi28_not (x : RoundKey) : hi28 (~~~x) = ~~~hi28 x := by
  conv_lhs => rw [← joinKey_split x, ← joinKey_not, hi28_joinKey]

theorem lo28_not (x : RoundKey) : lo28 (~~~x) = ~~~lo28 x := by
  conv_lhs => rw [← joinKey_split x, ← joinKey_not, lo28_joinKey]

theorem hi32_not (x : Block) : hi32 (~~~x) = ~~~hi32 x := by
  conv_lhs => rw [← joinHalves_split x, ← joinHalves_not, hi32_joinHalves]

theorem lo32_not (x : Block) : lo32 (~~~x) = ~~~lo32 x := by
  conv_lhs => rw [← joinHalves_split x, ← joinHalves_not, lo32_joinHalves]

theorem rotate_not (cd : RoundKey) (j : RoundIndex) (m : Mode) : rotate (~~~cd) j m = ~~~rotate cd j m := by
  have hs : shift j ≤ 27 := (shift_le j).trans (by decide)
  have hd : dshift j ≤ 27 := (dshift_le j).trans (by decide)
  cases m
  · simp only [rotate, rotateFwd, hi28_not, lo28_not, rotl28_not _ hs, joinKey_not]
  · simp only [rotate, rotateRev, hi28_not, lo28_not, rotr28_not _ hd, joinKey_not]

theorem scheduleKey_not (cd : RoundKey) (m : Mode) (n : Nat) : scheduleKey (~~~cd) m n = ~~~scheduleKey cd m n := by
  unfold scheduleKey
  induction roundIndexes.take n generalizing cd with
  | nil => rfl
  | cons j js ih => rw [List.foldl_cons, List.foldl_cons, rotate_not, ih]

theorem subkey_not (key : Block) (m : Mode) (j : Nat) : subkey (~~~key) m j = ~~~subkey key m j := by
  rw [subkey, subkey, derivePermutedKey_not, scheduleKey_not, compress_not]

theorem roundSubkeys_not (key : Block) (m : Mode) :
    roundSubkeys (~~~key) m = (roundSubkeys key m).map (~~~·) := by
  rw [roundSubkeys, roundSubkeys, List.map_map]
  exact List.map_congr_left fun j _ => subkey_not key m j

/-- Key mixing cancels the two complements (R82). -/
theorem roundF_not (r : Half) (k : Subkey) : roundF (~~~r) (~~~k) = roundF r k := by
  have hmix : ~~~expand r ^^^ ~~~k = expand r ^^^ k := by
    rw [← BitVec.not_xor_left, ← BitVec.not_xor_right, BitVec.not_not]
  rw [roundF, roundF, mixAndSubstitute_eq_packNibbles, mixAndSubstitute_eq_packNibbles, expand_not, hmix]

/-- Complement both halves. -/
def notHalves (x : Half × Half) : Half × Half := (~~~x.1, ~~~x.2)

theorem rpRoundPair_not (x : Half × Half) (k : Subkey) :
    rpRoundPair (notHalves x) (~~~k) = notHalves (rpRoundPair x k) := by
  simp only [rpRoundPair, rpRound, notHalves, roundF_not, BitVec.not_xor_left]

theorem foldl_rpRoundPair_not (ks : List Subkey) (x : Half × Half) :
    (ks.map (~~~·)).foldl rpRoundPair (notHalves x) = notHalves (ks.foldl rpRoundPair x) := by
  induction ks generalizing x with
  | nil => rfl
  | cons k ks ih => rw [List.map_cons, List.foldl_cons, List.foldl_cons, rpRoundPair_not, ih]

/-- A pass under complemented subkeys on complemented halves ends in complemented halves. -/
theorem feistelPass_not {ks : List Subkey} (h : ks ≠ []) (x : Half × Half) :
    feistelPass (ks.map (~~~·)) (notHalves x) = notHalves (feistelPass ks x) := by
  rw [feistelPass_eq_foldl h, feistelPass_eq_foldl (by simpa using h), foldl_rpRoundPair_not]
  rfl

theorem initialHalves_not (block : Block) : initialHalves (~~~block) = notHalves (initialHalves block) := by
  rw [initialHalves, initialPermute_not, hi32_not, lo32_not]
  rfl

/-- Settles O50: the complement passes through the permutations and the key schedule, and cancels in the key mixing of
every round. -/
theorem complementation : Obligations.Complementation := by
  intro block key m
  rw [processBlock_eq_feistelPass, processBlock_eq_feistelPass, roundSubkeys_not, initialHalves_not,
    feistelPass_not (roundSubkeys_ne_nil key m), ← finalPermute_not, ← joinHalves_not]
  rfl

end Sys2Proof.Machine
end

section
/-! PROOFS. The host's side: buffers of bytes, what each script line does and where it has a result, and the three lines
of ENCB and DECB (00_scope.md R15; 30_encoding.md R60, R61; log entry 8). -/

namespace Sys2Proof.Machine

/-! ### Eight bytes of a buffer -/

section

variable {buf : List Byte} {a : Nat}

theorem memRead8_of_fits (h : a + 8 ≤ buf.length) :
    memRead8 buf a = some (blockOfBytes ((buf.drop a).take 8)) := if_pos h

theorem memRead8_of_outside (h : buf.length < a + 8) : memRead8 buf a = none := if_neg (by omega)

theorem memWrite8_of_fits (h : a + 8 ≤ buf.length) (v : Block) :
    memWrite8 buf a v = some (buf.take a ++ bytesOfBlock v ++ buf.drop (a + 8)) := if_pos h

theorem memWrite8_of_outside (h : buf.length < a + 8) (v : Block) : memWrite8 buf a v = none := if_neg (by omega)

section

variable {buf' : List Byte} {v : Block} (h : memWrite8 buf a v = some buf')
include h

theorem memWrite8_eq_some : a + 8 ≤ buf.length ∧ buf' = buf.take a ++ bytesOfBlock v ++ buf.drop (a + 8) := by
  by_cases hfits : a + 8 ≤ buf.length
  · rw [memWrite8_of_fits hfits] at h
    cases h
    exact ⟨hfits, rfl⟩
  · rw [memWrite8_of_outside (by omega)] at h
    cases h

theorem length_of_memWrite8 : buf'.length = buf.length := by
  obtain ⟨hfits, rfl⟩ := memWrite8_eq_some h
  simp
  omega

theorem memRead8_of_memWrite8_same : memRead8 buf' a = some v := by
  have hlen := length_of_memWrite8 h
  obtain ⟨hfits, rfl⟩ := memWrite8_eq_some h
  have htake : (buf.take a).length = a := List.length_take_of_le (by omega)
  rw [memRead8_of_fits (hlen ▸ hfits), List.append_assoc, List.drop_left' htake,
    List.take_left' (length_bytesOfBlock v), blockOfBytes_bytesOfBlock]

/-- A write leaves every byte outside its eight as it was. -/
theorem getElem?_of_memWrite8 {j : Nat} (hj : j < a ∨ a + 8 ≤ j) : buf'[j]? = buf[j]? := by
  obtain ⟨hfits, rfl⟩ := memWrite8_eq_some h
  have htake : (buf.take a).length = a := List.length_take_of_le (by omega)
  rcases hj with hlt | hge
  · rw [List.append_assoc, List.getElem?_append_left (by omega), List.getElem?_take_of_lt hlt]
  · have hfront : (buf.take a ++ bytesOfBlock v).length = a + 8 := by
      rw [List.length_append, htake, length_bytesOfBlock]
    rw [List.getElem?_append_right (by omega), hfront, List.getElem?_drop, Nat.add_sub_cancel' hge]

theorem memRead8_of_memWrite8_apart {b : Nat} (hb : b + 8 ≤ a ∨ a + 8 ≤ b) : memRead8 buf' b = memRead8 buf b := by
  have hbytes : (buf'.drop b).take 8 = (buf.drop b).take 8 := by
    refine List.ext_getElem? fun i => ?_
    simp only [List.getElem?_take, List.getElem?_drop]
    split
    next hi => exact getElem?_of_memWrite8 h (by omega)
    next => rfl
  rw [memRead8, memRead8, hbytes, length_of_memWrite8 h]

end

end

/-- Settles O58, by whether the eight bytes fit. -/
theorem hostBufferReadAfterWrite : Obligations.HostBufferReadAfterWrite := by
  intro buf a
  refine ⟨fun hfits => ⟨memRead8_of_fits hfits, fun v => ?_⟩,
    fun hout => ⟨memRead8_of_outside hout, memWrite8_of_outside hout⟩⟩
  have hw := memWrite8_of_fits hfits v
  exact ⟨_, hw, length_of_memWrite8 hw, memRead8_of_memWrite8_same hw, fun _ => memRead8_of_memWrite8_apart hw⟩

/-! ### Driving the device -/

theorem HostState.drive_of_step {h : HostState} {p : CorePorts} {t : State} (n : Nat)
    (ht : step (h.device.drive (.core p)) = .next t) : h.drive p n = .next { h with device := t, line := n } := by
  simp only [HostState.drive, ht]

/-- A safe device takes the step that is driven. -/
theorem HostState.drive_of_safe {h : HostState} (hs : h.device.Safe) (p : CorePorts) (n : Nat) :
    ∃ h', h.drive p n = .next h' := by
  obtain ⟨t, ht⟩ := State.Safe.step_next (s := h.device.drive (.core p)) hs
  exact ⟨_, HostState.drive_of_step n ht⟩

theorem HostState.command_of_values {h : HostState} {k d : HostValue} {kv dv : Block} (hk : h.value k = some kv)
    (hd : h.value d = some dv) (cmd : BitVec 2) :
    h.command cmd k d = h.drive { rst := false, cmd := cmd, keyIn := kv, dataIn := dv } (h.line + 1) := by
  simp only [HostState.command, hk, hd]

/-! ### What each line does -/

/-- Settles O57, line by line: each result is read off the line's own row of `hostStep`. -/
theorem hostLinesTakeNoStep : Obligations.HostLinesTakeNoStep := by
  intro script h h' l hl hs
  simp only [hostStep, hl] at hs
  cases l with
  | rd x =>
    cases hs
    exact ⟨rfl, lookupVar_self .., fun y hy => lookupVar_ne hy ..⟩
  | ldb d a =>
    dsimp only at hs
    split at hs
    next => cases hs
    next addr haddr =>
      split at hs
      next => cases hs
      next v hv =>
        cases hs
        exact ⟨addr, v, haddr, hv, rfl, lookupVar_self .., fun y hy => lookupVar_ne hy ..⟩
  | stb a x =>
    dsimp only at hs
    split at hs
    next => cases hs
    next => cases hs
    next addr v haddr hv =>
      split at hs
      next => cases hs
      next buf hbuf =>
        cases hs
        exact ⟨addr, v, haddr, hv, hbuf, rfl⟩
  | add a n =>
    dsimp only at hs
    split at hs
    next => cases hs
    next addr haddr =>
      cases hs
      exact ⟨addr, haddr, rfl, lookupVar_self .., fun b hb => lookupVar_ne hb ..⟩
  | blt a n lbl =>
    dsimp only at hs
    split at hs
    next => cases hs
    next addr haddr =>
      split at hs
      next hlt =>
        split at hs
        next => cases hs
        next i hi =>
          cases hs
          obtain ⟨k, rfl, hk, hbefore⟩ := findLabel_some hi
          rw [Nat.zero_add]
          exact ⟨addr, haddr, rfl, fun _ => ⟨hk, hbefore⟩, fun hge => absurd hlt (by omega)⟩
      next hge =>
        cases hs
        exact ⟨addr, haddr, rfl, fun hlt => absurd hlt hge, fun _ => rfl⟩
  | label lbl =>
    cases hs
    rfl
  | wait =>
    dsimp only at hs
    split at hs
    next hdone =>
      cases hs
      exact ⟨rfl, fun _ => ⟨rfl, rfl⟩, fun hn => absurd (hdone.symm.trans hn) (by decide)⟩
    next hdone =>
      obtain ⟨hframe, hstep⟩ := HostState.drive_next hs
      have hline : h'.line = h.line := by rw [hframe]
      refine ⟨?_, fun hd => absurd hd hdone, fun _ => ⟨hline, hstep⟩⟩
      rw [hline]
      exact hframe
  | rst => exact HostState.drive_next hs
  | nop => exact HostState.drive_next hs
  | enc k d => exact HostState.command_next hs
  | dec k d => exact HostState.command_next hs

/-! ### Where each line has a result -/

/-- Settles O59, line by line. -/
theorem hostLinesComplete : Obligations.HostLinesComplete := by
  intro script h l hl hok
  simp only [hostStep, hl]
  cases l with
  | rd x => exact ⟨_, rfl⟩
  | ldb d a =>
    obtain ⟨addr, haddr, hfits⟩ := hok
    simp only [haddr, memRead8_of_fits hfits]
    exact ⟨_, rfl⟩
  | stb a x =>
    obtain ⟨addr, v, haddr, hv, hfits⟩ := hok
    rw [HostState.value_var] at hv
    simp only [haddr, hv, memWrite8_of_fits hfits]
    exact ⟨_, rfl⟩
  | add a n =>
    obtain ⟨addr, haddr⟩ := hok
    simp only [haddr]
    exact ⟨_, rfl⟩
  | blt a n lbl =>
    obtain ⟨addr, haddr, hlabel⟩ := hok
    simp only [haddr]
    by_cases hlt : addr < n
    · obtain ⟨i, hi⟩ := findLabel_isSome (hlabel hlt) 0
      simp only [if_pos hlt, hi]
      exact ⟨_, rfl⟩
    · simp only [if_neg hlt]
      exact ⟨_, rfl⟩
  | label lbl => exact ⟨_, rfl⟩
  | wait =>
    dsimp only
    split
    next => exact ⟨_, rfl⟩
    next hdone => exact HostState.drive_of_safe (hok.resolve_left hdone) ..
  | rst => exact ⟨_, HostState.drive_of_step _ (step_of_resets ⟨rfl, rfl⟩)⟩
  | nop => exact HostState.drive_of_safe hok ..
  | enc k d =>
    obtain ⟨hsafe, ⟨kv, hk⟩, dv, hd⟩ := hok
    simp only [HostState.command_of_values hk hd]
    exact HostState.drive_of_safe hsafe ..
  | dec k d =>
    obtain ⟨hsafe, ⟨kv, hk⟩, dv, hd⟩ := hok
    simp only [HostState.command_of_values hk hd]
    exact HostState.drive_of_safe hsafe ..

/-! ### The lines of ENCB and DECB -/

section

variable {script : List HostLine} {h h' : HostState}

theorem hostRun_next (hs : hostStep script h = .next h') (n : Nat) :
    hostRun script (n + 1) h = hostRun script n h' := by
  simp only [hostRun, hs]

theorem hostStep_wait_of_done (hl : script[h.line]? = some .wait) (hd : h.device.done = true) :
    hostStep script h = .next { h with line := h.line + 1 } := by
  simp only [hostStep, hl, hd, if_true]

theorem hostStep_wait_of_not_done (hl : script[h.line]? = some .wait) (hd : h.device.done = false) :
    hostStep script h = h.drive (h.quiet false) h.line := by
  simp [hostStep, hl, hd]

theorem hostStep_rd {x : Nat} (hl : script[h.line]? = some (.rd x)) :
    hostStep script h = .next { h with vars := (x, h.device.dataOut) :: h.vars, line := h.line + 1 } := by
  simp only [hostStep, hl]

/-- The command word a script line drives for a mode (R50, R60). -/
def loadCode : Mode → BitVec 2
  | .encrypt => 0b10
  | .decrypt => 0b11

theorem loadCode_start (m : Mode) : (loadCode m).getLsbD 1 = true := by cases m <;> rfl

theorem loadCode_mode (m : Mode) : Mode.ofBit ((loadCode m).getLsbD 0) = m := by cases m <;> rfl

/-- The script line of a mode (R60). -/
def loadLine (k d : HostValue) : Mode → HostLine
  | .encrypt => .enc k d
  | .decrypt => .dec k d

theorem hostStep_load {m : Mode} {k d : HostValue} (hl : script[h.line]? = some (loadLine k d m)) :
    hostStep script h = h.command (loadCode m) k d := by
  cases m
  · simp only [hostStep, hl, loadLine, loadCode]
  · simp only [hostStep, hl, loadLine, loadCode]

/-- An ENC or DEC line on a ready device starts the block of its operands. -/
theorem hostStep_load_atRound {m : Mode} {k d : HostValue} {kv dv : Block}
    (hl : script[h.line]? = some (loadLine k d m)) (hk : h.value k = some kv) (hd : h.value d = some dv)
    (hr : h.device.Ready) :
    ∃ t, hostStep script h = .next { h with device := t, line := h.line + 1 } ∧
      t.AtRound dv kv m h.device.dataOut 0 := by
  have hload : (h.device.drive (.core ⟨false, loadCode m, kv, dv⟩)).LoadsNext := ⟨rfl, rfl, loadCode_start m, hr⟩
  obtain ⟨t, ht⟩ : ∃ t, step (h.device.drive (.core ⟨false, loadCode m, kv, dv⟩)) = .next t :=
    ⟨_, step_of_loads hload⟩
  refine ⟨t, ?_, loadCode_mode m ▸ hload.atRound ht⟩
  rw [hostStep_load hl, HostState.command_of_values hk hd, HostState.drive_of_step _ ht]

/-- WAIT on a device at a round takes that round's step and stays. -/
theorem hostStep_wait_rounds (hl : script[h.line]? = some .wait) (hr : h.device.Running) :
    ∃ t, hostStep script h = .next { h with device := t } ∧ step (h.device.drive (.core (h.quiet false))) = .next t ∧
      (h.device.drive (.core (h.quiet false))).RoundsNext := by
  have hrounds : (h.device.drive (.core (h.quiet false))).RoundsNext := ⟨rfl, rfl, hr⟩
  have ht := step_of_rounds hrounds
  refine ⟨_, ?_, ht, hrounds⟩
  rw [hostStep_wait_of_not_done hl (State.outputs_of_run hr.2).2, HostState.drive_of_step _ ht]

/-- WAIT takes the rounds that are left of a block, one transition each. -/
theorem hostRun_wait {block key out : Block} {m : Mode} {j n : Nat} (hn : n + j = 15)
    (hl : script[h.line]? = some .wait) (hat : h.device.AtRound block key m out n) :
    ∃ t, t.Finished block key m ∧ ∀ i, hostRun script (i + (j + 1)) h = hostRun script i { h with device := t } := by
  induction j generalizing n h with
  | zero =>
    obtain rfl : n = 15 := hn
    obtain ⟨t, hs, ht, hr⟩ := hostStep_wait_rounds hl hat.running
    exact ⟨t, (hat.drive _).step_of_last hr ht, hostRun_next hs⟩
  | succ j ih =>
    obtain ⟨t, hs, ht, hr⟩ := hostStep_wait_rounds hl hat.running
    have hnext := (hat.drive _).step_of_lt (by omega) hr ht
    obtain ⟨u, hu, hrun⟩ := ih (h := { h with device := t }) (n := n + 1) (by omega) hl hnext
    refine ⟨u, hu, fun i => ?_⟩
    rw [← Nat.add_assoc, hostRun_next hs, hrun]

end

/-- Settles O56: one transition for the ENC or DEC line, sixteen for the rounds, one more WAIT, and RD. -/
theorem blockScriptComputes : Obligations.BlockScriptComputes := by
  intro script h x k d kv dv m hload hwait hrd hk hd hr
  have hline : script[h.line]? = some (loadLine k d m) := by cases m <;> exact hload
  obtain ⟨t, hs, hat⟩ := hostStep_load_atRound hline hk hd hr
  obtain ⟨u, hfin, hrun⟩ := hostRun_wait (h := { h with device := t, line := h.line + 1 }) (j := 15) rfl hwait hat
  have hdone : u.done = true := (State.outputs_of_done hfin.phase).2
  have hstep := hostStep_wait_of_done (h := { h with device := u, line := h.line + 1 }) hwait hdone
  have hread := hostStep_rd (h := { h with device := u, line := h.line + 2 }) hrd
  refine ⟨{ h with device := u, vars := (x, u.dataOut) :: h.vars, line := h.line + 3 }, ?_, rfl, ?_, hdone, rfl, rfl,
    rfl⟩
  · calc hostRun script 19 h = hostRun script (2 + 16) { h with device := t, line := h.line + 1 } := hostRun_next hs 18
      _ = hostRun script 2 { h with device := u, line := h.line + 1 } := hrun 2
      _ = hostRun script 1 { h with device := u, line := h.line + 2 } := hostRun_next hstep 1
      _ = _ := hostRun_next hread 0
  · rw [hfin.dataOut]

end Sys2Proof.Machine
end
